-- ==== Sys2Proof/Word.lean ====
section
/-! DEFINITION. The word types of the frame codec: bytes, frames seen as one number, selectors and samples
(00_scope.md rules R7, R9; every one of them unsigned, R11). -/

namespace Sys2Proof

/-- A frame byte, `BYTE_W` = 8 bits (R7, R9). -/
abbrev Byte := BitVec 8

/-- A 3-byte frame as one number F[23:0], byte 0 in F[23:16] (R9). -/
abbrev FrameWord := BitVec 24

/-- The chip's 0-based channel selector, `SEL_W` = 3 bits (R7). -/
abbrev Selector := BitVec 3

/-- A conversion result, `SAMPLE_W` = 12 bits, so 0 to 4095 (R7). -/
abbrev Sample := BitVec 12

end Sys2Proof
end

