-- ==== Sys2Proof/Config.lean ====
section
/-! DEFINITION. The parameters a model takes (00_scope.md rule R7) and the wrapper's configuration record
(10_state.md rule R26). The widths BYTE_W, SEL_W and SAMPLE_W stand in Word.lean; CH_W is the width of `encPorts`'
input (Machine/Flags.lean). -/

namespace Sys2Proof

/-- The source's BusConfig (R26). Every field is a natural number of no stated width; none is read by ENC or DEC. -/
structure BusConfig where
  bus : Nat
  device : Nat
  mode : Nat
  bitsPerWord : Nat
  maxClockHz : Nat
deriving DecidableEq, Repr

/-- OPEN's operand: a BusConfig record any of whose fields the caller may omit (R65, R124). -/
structure ConfigArgs where
  bus : Option Nat := none
  device : Option Nat := none
  mode : Option Nat := none
  bitsPerWord : Option Nat := none
  maxClockHz : Option Nat := none
deriving DecidableEq, Repr

end Sys2Proof

namespace Sys2Proof.Config

/-- `CH_MIN` (R7): the least legal channel index. -/
abbrev chMin : Int := 1

/-- `CH_MAX` (R7): the greatest legal channel index, equal to `N_CH`, the number of single-ended inputs. -/
abbrev chMax : Int := 8

/-- `FRAME_LEN` (R7, R70): bytes per command frame and per reply frame. -/
abbrev frameLen : Nat := 3

/-- The two bit orders a transport may shift a byte in (R44, D13). -/
inductive WireBitOrder where
  | msbFirst
  | lsbFirst
deriving DecidableEq, Repr, Inhabited

/-- `WIRE_BIT_ORDER` (R7): OPEN, a parameter of the transport. It has no body, and no rule of the block reads it
(R44): the block's contract is at byte level. -/
opaque wireBitOrder : WireBitOrder

/-- `TRANSPORT_ACCEPTS` (R7, R121, D11): OPEN, a parameter of the transport: which configurations it accepts. It has no
body, so a statement that meets it holds for every such parameter (log 6). -/
opaque transportAccepts : BusConfig → Bool

/-- One draw of the transport agent (R8, D24): the driver it answers, if that driver waits, and what it answers with:
whether a TOpen or a Transfer succeeds, the handle of a successful TOpen, the bytes of a successful Transfer. -/
structure Draw where
  driver : Nat
  success : Bool
  handle : Nat
  reply : List Byte
deriving DecidableEq, Repr, Inhabited

/-- The transport's draws, one after another, without end: a free value with no body (log 14). Nothing constrains it, so
a statement that meets it holds for every transport. -/
opaque draw : Nat → Draw

end Sys2Proof.Config
end

