-- ==== Sys2Proof/Syntax.lean ====
section
/-! DEFINITION. The rows of spec/opcode_table.json: the eight command frames the block emits (30_encoding.md rule R66)
and the reply frame it consumes (R64). The caller's operations (R65) are `Machine.Op`, in Machine/State.lean. -/

namespace Sys2Proof

/-- One constructor per row of the frame map. A command frame has no operand: its selector is fixed by the row.
A reply frame is three bytes of any value (R69). -/
inductive Instr where
  | cmdSeCh1
  | cmdSeCh2
  | cmdSeCh3
  | cmdSeCh4
  | cmdSeCh5
  | cmdSeCh6
  | cmdSeCh7
  | cmdSeCh8
  | reply (r0 r1 r2 : Byte)
deriving DecidableEq, Repr

end Sys2Proof
end

