-- ==== Sys2Proof/WellFormed.lean ====
section
/-! DEFINITION. Well-formedness: of a frame word as a command of this block (30_encoding.md rules R63, R67), and of an
instruction. -/

namespace Sys2Proof

/-- The legality check of R67 in the match and mask form of R63: START = 1, SGL = 1 and every fixed-zero bit clear,
the three selector bits free. Exactly eight values pass. -/
def FrameWord.isCommand (F : FrameWord) : Bool := (F &&& 0xFE3FFF#24) == 0x060000#24

/-- The single-ended channel a command row stands for (opcode_table.json, "channel"); a reply has none. -/
def Instr.channel? : Instr → Option Int
  | .cmdSeCh1 => some 1
  | .cmdSeCh2 => some 2
  | .cmdSeCh3 => some 3
  | .cmdSeCh4 => some 4
  | .cmdSeCh5 => some 5
  | .cmdSeCh6 => some 6
  | .cmdSeCh7 => some 7
  | .cmdSeCh8 => some 8
  | .reply _ _ _ => none

/-- An instruction is well formed when its channel, if it has one, is a legal one (R81). Every reply frame is legal
(R69), and no command row has an operand, so every term of `Instr` is well formed. -/
def Instr.WellFormed (i : Instr) : Bool :=
  match i.channel? with
  | some ch => decide (Config.chMin ≤ ch ∧ ch ≤ Config.chMax)
  | none => true

end Sys2Proof
end

