-- ==== Sys2Proof/Decode.lean ====
section
/-! DEFINITION. From frame bytes to an instruction or a rejection by name, and the encoder back (30_encoding.md §2 to
§6). A 24-bit word alone does not say whether it is a command or a reply (the REPLY row's mask is 0), so the decoder is
told the direction: what the block sends is checked against the eight commands of R66, and every three bytes it receives
are a reply (R69). -/

namespace Sys2Proof

/-- Which way a frame travels: out of the block as a command, or into it as a reply. -/
inductive Direction where
  | command
  | reply
deriving DecidableEq, Repr

/-- Why bytes are no frame of this block. -/
inductive Rejection where
  /-- a frame has exactly three bytes (R45, R70); this many came -/
  | notThreeBytes (n : Nat)
  /-- R67: "not a command of this block" -/
  | notACommand (F : FrameWord)
deriving DecidableEq, Repr

/-- What the decoder answers: an instruction, or a rejection by name. -/
inductive Decoded where
  | instr (i : Instr)
  | rejected (why : Rejection)
deriving DecidableEq, Repr

/-- The frame as one number: byte 0, the byte sent first, is F[23:16] (R9, R42). -/
def frameWord (b0 b1 b2 : Byte) : FrameWord := b0 ++ b1 ++ b2

/-- Byte 0, 1 and 2 of a frame word (R9). -/
def frameByte0 (F : FrameWord) : Byte := F.extractLsb' 16 8
@[inherit_doc frameByte0] def frameByte1 (F : FrameWord) : Byte := F.extractLsb' 8 8
@[inherit_doc frameByte0] def frameByte2 (F : FrameWord) : Byte := F.extractLsb' 0 8

/-- The frame map of R66, read from the word: the eight commands and no other value (R67). -/
def decodeCommand (F : FrameWord) : Decoded :=
  if F = 0x060000#24 then .instr .cmdSeCh1
  else if F = 0x064000#24 then .instr .cmdSeCh2
  else if F = 0x068000#24 then .instr .cmdSeCh3
  else if F = 0x06C000#24 then .instr .cmdSeCh4
  else if F = 0x070000#24 then .instr .cmdSeCh5
  else if F = 0x074000#24 then .instr .cmdSeCh6
  else if F = 0x078000#24 then .instr .cmdSeCh7
  else if F = 0x07C000#24 then .instr .cmdSeCh8
  else .rejected (.notACommand F)

/-- Decode the bytes of a frame, in bus order (R42). Total: the length is checked first (R70), a command against the
frame map, and every reply of three bytes is legal (R69). -/
def decode (d : Direction) (bytes : List Byte) : Decoded :=
  match bytes with
  | [b0, b1, b2] =>
    match d with
    | .command => decodeCommand (frameWord b0 b1 b2)
    | .reply => .instr (.reply b0 b1 b2)
  | other => .rejected (.notThreeBytes other.length)

/-- The way an instruction's frame travels (R62, R64). -/
def Instr.direction : Instr → Direction
  | .cmdSeCh1 | .cmdSeCh2 | .cmdSeCh3 | .cmdSeCh4 | .cmdSeCh5 | .cmdSeCh6 | .cmdSeCh7 | .cmdSeCh8 => .command
  | .reply _ _ _ => .reply

/-- The bytes of an instruction's frame in bus order, from the table of R66 and the reply format of R64. -/
def encode : Instr → List Byte
  | .cmdSeCh1 => [0x06#8, 0x00#8, 0x00#8]
  | .cmdSeCh2 => [0x06#8, 0x40#8, 0x00#8]
  | .cmdSeCh3 => [0x06#8, 0x80#8, 0x00#8]
  | .cmdSeCh4 => [0x06#8, 0xC0#8, 0x00#8]
  | .cmdSeCh5 => [0x07#8, 0x00#8, 0x00#8]
  | .cmdSeCh6 => [0x07#8, 0x40#8, 0x00#8]
  | .cmdSeCh7 => [0x07#8, 0x80#8, 0x00#8]
  | .cmdSeCh8 => [0x07#8, 0xC0#8, 0x00#8]
  | .reply r0 r1 r2 => [r0, r1, r2]

/-- The instruction of a 24-bit word as spec/opcode_table.json numbers its bits (F[23:0], bit 0 the least significant):
one of the eight commands where the word is one, and otherwise the REPLY row, whose mask is 0. The table does not give a
direction, so the more specific row wins (log 7). Bits above `nbits` are 0; a frame has no more than 24 bits (R70). -/
def decodeTableWord (nbits w : Nat) : Option Instr :=
  if 24 < nbits then none
  else
    let F : FrameWord := BitVec.ofNat 24 (w % 2 ^ nbits)
    match decode .command [frameByte0 F, frameByte1 F, frameByte2 F] with
    | .instr i => some i
    | .rejected _ =>
      match decode .reply [frameByte0 F, frameByte1 F, frameByte2 F] with
      | .instr i => some i
      | .rejected _ => none

end Sys2Proof
end

