-- ==== Sys2Proof/Machine/State.lean ====
section
/-! DEFINITION. The machine's state as plain data: the drivers with their lifecycle, handle, configuration and in-flight
request (10_state.md rules R24 to R30), and the model's own fields for the caller, the outside world and what leaves the
block. The caller's operations, the errors, and the transport's requests and answers are named here too. -/

namespace Sys2Proof.Machine

/-- The transport's token for an open node (R25). The block only stores it and hands it back. -/
abbrev Handle := Nat

/-- The lifecycle of a driver (R24). -/
inductive Life where
  | absent
  | opened
  | closed
deriving DecidableEq, Repr

/-- The error taxonomy of R150, each with the information it carries (R151). An error is a RESULT handed to the caller;
the machine goes on (R152, R156). -/
inductive Error where
  | transportUnavailable (bus device : Nat)
  | invalidConfig (cfg : BusConfig)
  | invalidChannel (channel : Int)
  | transferFailed
  | notOpen
deriving DecidableEq, Repr

/-- What an operation hands back to its caller (R65): ENCODE a frame, DECODE and READ a sample, OPEN a driver, CLOSE
nothing, and any of them an error in place of its result (R152). -/
inductive Result where
  | frame (b0 b1 b2 : Byte)
  | sample (v : Sample)
  | created
  | done
  | error (e : Error)
deriving DecidableEq, Repr

/-- What the block asks of the transport (R12, R120 to R123). -/
inductive Request where
  | tOpen (bus device : Nat)
  | tConfigure (h : Handle) (mode bitsPerWord maxClockHz : Nat)
  | transfer (h : Handle) (b0 b1 b2 : Byte)
  | tClose (h : Handle)
deriving DecidableEq, Repr

/-- What the transport may answer (R120 to R123): TOpen's handle or its failure, that TConfigure has returned (its
verdict, ok or fail, is the parameter TRANSPORT_ACCEPTS: R121, log 6), Transfer's reply or its failure, that TClose has
returned. A reply is a list of bytes because a transport may return a wrong number of them (R130). Never answering is the
absence of an answer (R131). -/
inductive Answer where
  | opened (h : Handle)
  | openFailed
  | verdict
  | reply (bytes : List Byte)
  | transferFailed
  | released
deriving DecidableEq, Repr

/-- The operations of R3 and R65. `id` is the caller's name for a driver (log 4); ENCODE and DECODE need none
(R90, D27). -/
inductive Op where
  | encode (channel : Int)
  | decode (r0 r1 r2 : Byte)
  | openDriver (id : Nat) (args : ConfigArgs)
  | read (id : Nat) (channel : Int)
  | close (id : Nat)
deriving DecidableEq, Repr

/-- What reaches the block from outside between two steps: a call, or the transport's answer to a driver's request. -/
inductive Input where
  | call (op : Op)
  | answer (id : Nat) (a : Answer)
deriving DecidableEq, Repr

/-- A caller program of R71: a sequence of operations with REPEAT and FOREVER. The loops are caller control flow, not
operations of the block (R72). -/
inductive Program where
  | done
  | op (o : Op) (rest : Program)
  | rep (n : Nat) (body rest : Program)
  | forever (body rest : Program)
deriving DecidableEq, Repr

/-- The transport request of an operation that has not completed (R30, R131), with the values the rest of the operation
needs: OPEN's configuration and, once there is one, its handle (R124, R126). -/
inductive Inflight where
  | tOpen (cfg : BusConfig)
  | tConfigure (cfg : BusConfig) (h : Handle)
  | tRelease (cfg : BusConfig) (h : Handle)
  | transfer
  | tClose
deriving DecidableEq, Repr

/-- One driver: the wrapper state of 10_state.md §2 and the request it waits on. `handle` and `cfg` have a value only
where the spec gives them one (R25, R173: "undefined" means no value). -/
structure Driver where
  life : Life
  handle : Option Handle
  cfg : Option BusConfig
  inflight : Option Inflight
deriving DecidableEq, Repr

/-- A driver nobody has constructed (R24, R171, R173): Absent, `h` and `cfg` without a value, nothing in flight. -/
def Driver.fresh : Driver := { life := .absent, handle := none, cfg := none, inflight := none }

/-- What leaves the block: a result for the caller of the operation (on a driver, or `none` for ENCODE and DECODE), or a
driver's request to the transport. -/
inductive Output where
  | result (who : Option Nat) (r : Result)
  | request (id : Nat) (q : Request)
deriving DecidableEq, Repr

/-- The transport agent once the inputs are used up: it stays silent (a hang, R131), or it goes on answering by the free
draws `Config.draw`, the next one being the `n`-th (R8, D24; log 14). -/
inductive Transport where
  | silent
  | drawn (n : Nat)
deriving DecidableEq, Repr

/-- The whole machine. `drivers` lists the drivers that differ from `Driver.fresh`, by strictly rising name; the other
five fields are the model's own (logs 2, 5, 14). -/
structure State where
  /-- the drivers (R24 to R26, R30, R161) -/
  drivers : List (Nat × Driver)
  /-- for whom the codec runs a frame within one step: a READ of this driver, or (`none`) the caller's own ENCODE or
  DECODE; a value local to the step (R28) -/
  serving : Option Nat
  /-- calls and transport answers not yet taken, oldest first; an answer waits until its request may have been made -/
  inputs : List Input
  /-- what the transport does after the answers among the inputs -/
  transport : Transport
  /-- what the sequential caller still is to issue (R22, R71) -/
  program : Program
  /-- results and requests the block has emitted, oldest first; no rule reads it -/
  outputs : List Output
deriving DecidableEq, Repr

/-- Why the machine stops. All are SAFE: the model has no behaviour where the spec gives none, and none is raised
for an input that R120 to R123 and R135 allow. -/
inductive Fault where
  /-- raised when the transport answers a driver that has no request in flight while the caller cannot make one; safe
  (outside R120 to R123; log 9) -/
  | unsolicitedAnswer
  /-- raised when the transport answers a request with an answer of another request's kind; safe (outside R120 to
  R123; log 9) -/
  | answerMismatch
  /-- raised when TOpen answers with a handle that another driver owns; safe (R25: a handle is a single exclusively owned
  resource; log 13) -/
  | sharedHandle
  /-- raised when a handle or a configuration without a value would be read, which R173 calls an error of the model and
  no state that keeps the invariant does; safe (log 9) -/
  | undefinedRead
  /-- raised when bytes offered as a frame of the block are none (R67, R70); no operation offers such bytes; safe -/
  | notAFrame
deriving DecidableEq, Repr

/-- What the model gives no meaning. All are SAFE: they are the refusals of R135 and R161, which err toward
unprovable. -/
inductive Refusal where
  /-- raised by an arm of `exec` whose instruction is not modelled; there is none; safe -/
  | notModelled (mnemonic : String)
  /-- raised by READ or CLOSE on an absent driver (R135 a); safe -/
  | noDriver
  /-- raised by OPEN on a driver that exists (R135 b); safe -/
  | driverExists
  /-- raised by any operation on a driver whose earlier operation has not completed (R135 c); safe -/
  | overlap
  /-- raised by OPEN on the bus and device another driver holds (R161); safe -/
  | sharedPath
deriving DecidableEq, Repr

/-- The start (R170, R171, R173): every driver absent, nothing in flight; nothing has arrived, nothing is to be issued,
nothing has been emitted, the transport is at its first draw (logs 5, 14). -/
def State.reset : State :=
  { drivers := [], serving := none, inputs := [], transport := .drawn 0, program := .done, outputs := [] }

end Sys2Proof.Machine
end

