-- ==== Sys2Proof/Machine/Operands.lean ====
section
/-! DEFINITION. The operand forms of 30_encoding.md rule R65: the channel index and its selector, the frame bytes made
from a selector, the sample made from reply bytes, and OPEN's record with its defaults. -/

namespace Sys2Proof.Machine

/-- R81: a channel is legal iff 1 <= channel <= 8; any other integer is not, and none wraps. -/
abbrev LegalChannel (channel : Int) : Prop := Config.chMin ≤ channel ∧ channel ≤ Config.chMax

/-- R83: the 0-based selector s = channel - 1. -/
def selector (channel : Int) : Selector := BitVec.ofInt 3 (channel - 1)

/-- R84: start bit at position 2, single-ended bit at position 1, top selector bit at position 0. -/
def commandByte0 (s : Selector) : Byte :=
  (1#8 <<< 2) ||| (1#8 <<< 1) ||| ((s.setWidth 8 &&& 0b100#8) >>> 2)

/-- R85: middle selector bit at bit 7, low selector bit at bit 6. -/
def commandByte1 (s : Selector) : Byte :=
  (((s.setWidth 8 &&& 0b010#8) >>> 1) <<< 7) ||| ((s.setWidth 8 &&& 0b001#8) <<< 6)

/-- R86: the padding byte, always sent as 0x00. -/
def commandByte2 : Byte := 0x00#8

/-- A command frame: three bytes in bus order (R42, R62). -/
structure CommandFrame where
  b0 : Byte
  b1 : Byte
  b2 : Byte
deriving DecidableEq, Repr

/-- The frame of a selector (R84 to R86). -/
def commandFrame (s : Selector) : CommandFrame :=
  { b0 := commandByte0 s, b1 := commandByte1 s, b2 := commandByte2 }

/-- The ENCODE function of R87: the frame of a legal channel; `none` stands for InvalidChannel (R82). -/
def encodeChannel (channel : Int) : Option CommandFrame :=
  if LegalChannel channel then some (commandFrame (selector channel)) else none

/-- The DECODE function of R104: ((r1 & 0x0F) << 8) | r2; r0 and r1[7:4] are ignored (R101, R102). -/
def decodeSample (_r0 r1 r2 : Byte) : Sample :=
  ((r1 &&& 0x0F#8).setWidth 12 <<< 8) ||| r2.setWidth 12

/-- R125: an omitted field takes its default. -/
def fillDefaults (a : ConfigArgs) : BusConfig :=
  { bus := a.bus.getD 0
    device := a.device.getD 0
    mode := a.mode.getD 0
    bitsPerWord := a.bitsPerWord.getD 8
    maxClockHz := a.maxClockHz.getD 500000 }

end Sys2Proof.Machine
end

