-- ==== Sys2Proof/Machine/Flags.lean ====
section
/-! DEFINITION. The hardware has no flags (10_state.md rule R23): an operation's outcome is its result or its error.
Here are the two forms in which the outcome is a value instead: the ports of ENC and DEC (30_encoding.md rules R60,
R61), whose `ch_err` is recomputed from the input and never stored, and the outcome codes of R150. -/

namespace Sys2Proof.Machine

/-- The output ports of ENC (R60). -/
structure EncPorts where
  cmd0 : Byte
  cmd1 : Byte
  cmd2 : Byte
  chErr : Bool
deriving DecidableEq, Repr

/-- ENC as a combinational function of `ch_in`, unsigned and `CH_W` = 8 bits wide (R60, R82, R87). An illegal channel
drives `ch_err` = 1 and zero bytes. -/
def encPorts (chIn : BitVec 8) : EncPorts :=
  match encodeChannel (chIn.toNat : Int) with
  | some f => { cmd0 := f.b0, cmd1 := f.b1, cmd2 := f.b2, chErr := false }
  | none => { cmd0 := 0x00#8, cmd1 := 0x00#8, cmd2 := 0x00#8, chErr := true }

/-- DEC as a combinational function of its input ports (R61, R104). It has no error output. -/
def decPort (rpy0 rpy1 rpy2 : Byte) : Sample := decodeSample rpy0 rpy1 rpy2

/-- The error codes of R150. -/
def Error.code : Error → Nat
  | .transportUnavailable _ _ => 1
  | .invalidConfig _ => 2
  | .invalidChannel _ => 3
  | .transferFailed => 4
  | .notOpen => 5

/-- The outcome code of a result: 0 is success (R150). -/
def Result.code : Result → Nat
  | .frame _ _ _ | .sample _ | .created | .done => 0
  | .error e => e.code

end Sys2Proof.Machine
end

