-- ==== Sys2Proof/Machine/Ops.lean ====
section
/-! DEFINITION. The shared operations over the state: the table of drivers, handing out results and transport requests,
raising an error, and what the codec does with a frame or a sample it has computed. -/

namespace Sys2Proof.Machine

/-- The driver of a name in a table; an unlisted name is a driver nobody has constructed (R24). -/
def lookupDriver : List (Nat × Driver) → Nat → Driver
  | [], _ => Driver.fresh
  | (j, d) :: t, k => if k = j then d else lookupDriver t k

/-- The table without a name. -/
def eraseDriver (t : List (Nat × Driver)) (k : Nat) : List (Nat × Driver) :=
  t.filter (fun e => e.1 != k)

/-- The table with an entry put before the first greater name. -/
def insertDriver : List (Nat × Driver) → Nat → Driver → List (Nat × Driver)
  | [], k, d => [(k, d)]
  | (j, e) :: t, k, d => if k < j then (k, d) :: (j, e) :: t else (j, e) :: insertDriver t k d

/-- The table with a driver written. Writing `Driver.fresh` removes the entry, so that equal machines are equal data. -/
def writeDriver (t : List (Nat × Driver)) (k : Nat) (d : Driver) : List (Nat × Driver) :=
  if d = Driver.fresh then eraseDriver t k else insertDriver (eraseDriver t k) k d

/-- The driver the caller knows as `id`. -/
def State.driver (s : State) (id : Nat) : Driver := lookupDriver s.drivers id

/-- Write one driver. -/
def State.setDriver (s : State) (id : Nat) (d : Driver) : State :=
  { s with drivers := writeDriver s.drivers id d }

/-- Set the request a driver waits on (R30). -/
def State.setInflight (s : State) (id : Nat) (f : Option Inflight) : State :=
  s.setDriver id { s.driver id with inflight := f }

/-- Append to what leaves the block. -/
def State.emit (s : State) (o : Output) : State := { s with outputs := s.outputs ++ [o] }

/-- The node a driver holds or is opening (R41): from OPEN's call until CLOSE has released the handle, or until the
failed OPEN has returned. -/
def Driver.path? (d : Driver) : Option (Nat × Nat) :=
  match d.inflight with
  | some (.tOpen cfg) => some (cfg.bus, cfg.device)
  | some (.tConfigure cfg _) => some (cfg.bus, cfg.device)
  | some (.tRelease cfg _) => some (cfg.bus, cfg.device)
  | some .transfer | some .tClose | none =>
    match d.life with
    | .opened => d.cfg.map (fun c => (c.bus, c.device))
    | .absent | .closed => none

/-- Another driver than `id` holds or is opening the path (R161). -/
def State.pathTaken (s : State) (id : Nat) (path : Nat × Nat) : Bool :=
  s.drivers.any (fun e => e.1 != id && e.2.path? == some path)

/-- The handle a driver owns (R25): from TOpen's answer until TClose has returned, whether that is CLOSE's or the one
after a rejected configuration (R126). -/
def Driver.held? (d : Driver) : Option Handle :=
  match d.inflight with
  | some (.tConfigure _ h) => some h
  | some (.tRelease _ h) => some h
  | some (.tOpen _) | some .transfer | some .tClose | none => d.handle

/-- Another driver than `id` owns the handle (R25, R30). -/
def State.handleTaken (s : State) (id : Nat) (h : Handle) : Bool :=
  s.drivers.any (fun e => e.1 != id && e.2.held? == some h)

/-- The transport's contract (R120 to R123): the kind of answer a request may get. -/
def Inflight.expects : Inflight → Answer → Bool
  | .tOpen _, .opened _ => true
  | .tOpen _, .openFailed => true
  | .tConfigure _ _, .verdict => true
  | .tRelease _ _, .released => true
  | .transfer, .reply _ => true
  | .transfer, .transferFailed => true
  | .tClose, .released => true
  | _, _ => false

/-- An answer brings a handle that another driver than `id` owns. -/
def State.bringsTaken (s : State) (id : Nat) : Answer → Bool
  | .opened h => s.handleTaken id h
  | .openFailed | .verdict | .reply _ | .transferFailed | .released => false

/-- The transport may answer a driver so: the driver waits for an answer of that kind (R120 to R123), and a handle it
brings is owned by no other driver (R25). -/
def State.expects (s : State) (id : Nat) (a : Answer) : Bool :=
  match (s.driver id).inflight with
  | some f => f.expects a && !s.bringsTaken id a
  | none => false

/-- An operation of some driver has not completed (R30). -/
def State.busy (s : State) : Bool := s.drivers.any (fun e => e.2.inflight.isSome)

/-- Hand a result to the caller of an operation; the codec serves nobody afterwards. -/
def deliver (who : Option Nat) (r : Result) (s : State) : State :=
  { s.emit (.result who r) with serving := none }

/-- Complete a driver's operation that waited on the transport: nothing is in flight any more (R48). -/
def complete (id : Nat) (r : Result) (s : State) : State :=
  deliver (some id) r (s.setInflight id none)

/-- Taking an error, R152 and R155: the operation ends and the error goes to its immediate caller in place of the
result. Nothing is saved and nothing else changes: no cause register, no saved program counter, no vector, no mode. There
is no return from an error (R156): the caller simply continues. -/
def raise (who : Option Nat) (e : Error) (s : State) : Host.Outcome State Fault Refusal :=
  .next (deliver who (.error e) s)

/-- Taking an error in an operation that waited on the transport (R155): the operation is over. -/
def raiseInflight (id : Nat) (e : Error) (s : State) : Host.Outcome State Fault Refusal :=
  raise (some id) e (s.setInflight id none)

/-- Ask the transport, and wait for its answer (R131). -/
def ask (id : Nat) (q : Request) (f : Inflight) (s : State) : State :=
  (s.setInflight id (some f)).emit (.request id q)

/-- What the block does with a command frame it has made. For the caller's own ENCODE it is the result (R87); inside the
READ of a driver it is handed whole to the transport in one Transfer on the driver's handle (R45, R127, R128). -/
def deliverFrame (f : CommandFrame) (s : State) : Host.Outcome State Fault Refusal :=
  match s.serving with
  | none => .next (deliver none (.frame f.b0 f.b1 f.b2) s)
  | some id =>
    match (s.driver id).handle with
    | some h => .next (ask id (.transfer h f.b0 f.b1 f.b2) .transfer { s with serving := none })
    | none => .fault .undefinedRead

/-- What the block does with a sample it has decoded: it is the result of the caller's own DECODE (R104), or of the READ
whose exchange the reply completes (R127). -/
def deliverSample (v : Sample) (s : State) : Host.Outcome State Fault Refusal :=
  match s.serving with
  | none => .next (deliver none (.sample v) s)
  | some id => .next (complete id (.sample v) s)

end Sys2Proof.Machine
end

