-- ==== Sys2Proof/Machine/Encoder.lean ====
section
/-! DEFINITION. The command rows CMD_SE_CH1 to CMD_SE_CH8 (rule R87, frame map R66): ENC makes the frame of the row's
channel, and the frame goes where `deliverFrame` says. -/

namespace Sys2Proof.Machine

/-- CMD_SE_CH1: channel 1, selector 0 (R66, R87). -/
def execCmdSeCh1 (s : State) : Host.Outcome State Fault Refusal := deliverFrame (commandFrame (selector 1)) s

/-- CMD_SE_CH2: channel 2, selector 1 (R66, R87). -/
def execCmdSeCh2 (s : State) : Host.Outcome State Fault Refusal := deliverFrame (commandFrame (selector 2)) s

/-- CMD_SE_CH3: channel 3, selector 2 (R66, R87). -/
def execCmdSeCh3 (s : State) : Host.Outcome State Fault Refusal := deliverFrame (commandFrame (selector 3)) s

/-- CMD_SE_CH4: channel 4, selector 3 (R66, R87). -/
def execCmdSeCh4 (s : State) : Host.Outcome State Fault Refusal := deliverFrame (commandFrame (selector 4)) s

/-- CMD_SE_CH5: channel 5, selector 4 (R66, R87). -/
def execCmdSeCh5 (s : State) : Host.Outcome State Fault Refusal := deliverFrame (commandFrame (selector 5)) s

/-- CMD_SE_CH6: channel 6, selector 5 (R66, R87). -/
def execCmdSeCh6 (s : State) : Host.Outcome State Fault Refusal := deliverFrame (commandFrame (selector 6)) s

/-- CMD_SE_CH7: channel 7, selector 6 (R66, R87). -/
def execCmdSeCh7 (s : State) : Host.Outcome State Fault Refusal := deliverFrame (commandFrame (selector 7)) s

/-- CMD_SE_CH8: channel 8, selector 7 (R66, R87). -/
def execCmdSeCh8 (s : State) : Host.Outcome State Fault Refusal := deliverFrame (commandFrame (selector 8)) s

end Sys2Proof.Machine
end

