-- ==== Sys2Proof/Machine/SampleDecoder.lean ====
section
/-! DEFINITION. The REPLY row (rule R104): DEC makes the sample of three reply bytes, and the sample goes where
`deliverSample` says. -/

namespace Sys2Proof.Machine

/-- REPLY r0 r1 r2 (R104). It has no error (R103). -/
def execReply (r0 r1 r2 : Byte) (s : State) : Host.Outcome State Fault Refusal :=
  deliverSample (decodeSample r0 r1 r2) s

end Sys2Proof.Machine
end

