-- ==== Sys2Proof/Machine/Dispatch.lean ====
section
/-! DEFINITION. One arm per constructor of Instr, each a direct call of its meaning. -/

namespace Sys2Proof.Machine

def exec (i : Instr) (s : State) : Host.Outcome State Fault Refusal :=
  match i with
  | .cmdSeCh1 => Sys2Proof.Machine.execCmdSeCh1 s
  | .cmdSeCh2 => Sys2Proof.Machine.execCmdSeCh2 s
  | .cmdSeCh3 => Sys2Proof.Machine.execCmdSeCh3 s
  | .cmdSeCh4 => Sys2Proof.Machine.execCmdSeCh4 s
  | .cmdSeCh5 => Sys2Proof.Machine.execCmdSeCh5 s
  | .cmdSeCh6 => Sys2Proof.Machine.execCmdSeCh6 s
  | .cmdSeCh7 => Sys2Proof.Machine.execCmdSeCh7 s
  | .cmdSeCh8 => Sys2Proof.Machine.execCmdSeCh8 s
  | .reply r0 r1 r2 => Sys2Proof.Machine.execReply r0 r1 r2 s

end Sys2Proof.Machine
end

