-- ==== Sys2Proof/Machine/Wrapper.lean ====
section
/-! DEFINITION. The operations of 42_transaction.md and 40_encoder.md/41_decoder.md as the caller issues them, and what
each does when the transport answers. An operation that needs no answer completes within its call; one that does waits in
its driver's `inflight` (R131). -/

namespace Sys2Proof.Machine

/-- Run the frame that stands in some bytes: decode it and execute it. -/
def runFrame (d : Direction) (bytes : List Byte) (s : State) : Host.Outcome State Fault Refusal :=
  match decode d bytes with
  | .instr i => exec i s
  | .rejected _ => .fault .notAFrame

/-- ENCODE for the caller (`who` = none) or inside the READ of a driver: R87 with R81 and R82. A legal channel's frame,
as ENC drives it, is run; an illegal channel raises InvalidChannel and no frame exists. -/
def encodeFor (who : Option Nat) (channel : Int) (s : State) : Host.Outcome State Fault Refusal :=
  match encodeChannel channel with
  | none => raise who (.invalidChannel channel) s
  | some f => runFrame .command [f.b0, f.b1, f.b2] { s with serving := who }

/-- DECODE r0, r1, r2 as the caller's own operation (R104). -/
def callDecode (r0 r1 r2 : Byte) (s : State) : Host.Outcome State Fault Refusal :=
  runFrame .reply [r0, r1, r2] { s with serving := none }

/-- OPEN args (R124): refused on a driver that exists or is busy (R135) and on a taken path (R161); otherwise the
defaults are filled in (R125) and TOpen is asked (R120). -/
def callOpen (id : Nat) (args : ConfigArgs) (s : State) : Host.Outcome State Fault Refusal :=
  match (s.driver id).life with
  | .opened | .closed => .refused .driverExists
  | .absent =>
    match (s.driver id).inflight with
    | some _ => .refused .overlap
    | none =>
      match s.pathTaken id ((fillDefaults args).bus, (fillDefaults args).device) with
      | true => .refused .sharedPath
      | false =>
        .next (ask id (.tOpen (fillDefaults args).bus (fillDefaults args).device) (.tOpen (fillDefaults args)) s)

/-- READ channel (R127): NotOpen first (R134, R154), then the refusals of R135, then ENCODE and its check, then the one
Transfer. -/
def callRead (id : Nat) (channel : Int) (s : State) : Host.Outcome State Fault Refusal :=
  match (s.driver id).life with
  | .closed => raise (some id) .notOpen s
  | .absent =>
    match (s.driver id).inflight with
    | some _ => .refused .overlap
    | none => .refused .noDriver
  | .opened =>
    match (s.driver id).inflight with
    | some _ => .refused .overlap
    | none => encodeFor (some id) channel s

/-- CLOSE (R133): NotOpen on a closed driver (R134), the refusals of R135, otherwise TClose is asked (R123). -/
def callClose (id : Nat) (s : State) : Host.Outcome State Fault Refusal :=
  match (s.driver id).life with
  | .closed => raise (some id) .notOpen s
  | .absent =>
    match (s.driver id).inflight with
    | some _ => .refused .overlap
    | none => .refused .noDriver
  | .opened =>
    match (s.driver id).inflight with
    | some _ => .refused .overlap
    | none =>
      match (s.driver id).handle with
      | some h => .next (ask id (.tClose h) .tClose s)
      | none => .fault .undefinedRead

/-- The caller issues an operation (R139). -/
def call (op : Op) (s : State) : Host.Outcome State Fault Refusal :=
  match op with
  | .encode channel => encodeFor none channel s
  | .decode r0 r1 r2 => callDecode r0 r1 r2 s
  | .openDriver id args => callOpen id args s
  | .read id channel => callRead id channel s
  | .close id => callClose id s

/-- TOpen has answered (R124): failure raises TransportUnavailable and the driver stays Absent; a handle is owned by this
driver alone (R25) and is configured next (R121). -/
def answerOpen (id : Nat) (cfg : BusConfig) (a : Answer) (s : State) : Host.Outcome State Fault Refusal :=
  match a with
  | .opened h =>
    match s.handleTaken id h with
    | true => .fault .sharedHandle
    | false => .next (ask id (.tConfigure h cfg.mode cfg.bitsPerWord cfg.maxClockHz) (.tConfigure cfg h) s)
  | .openFailed => raiseInflight id (.transportUnavailable cfg.bus cfg.device) s
  | .verdict | .reply _ | .transferFailed | .released => .fault .answerMismatch

/-- TConfigure has answered (R124), under a transport that accepts the configurations `accepts` (R7, R121): the driver of
an accepted one holds its configuration and handle and is Open (R172); a rejected one has the opened handle released first
(R126). -/
def answerConfigure (accepts : BusConfig → Bool) (id : Nat) (cfg : BusConfig) (h : Handle) (a : Answer) (s : State) :
    Host.Outcome State Fault Refusal :=
  match a with
  | .verdict =>
    match accepts cfg with
    | true =>
      .next (deliver (some id) .created
        (s.setDriver id { life := .opened, handle := some h, cfg := some cfg, inflight := none }))
    | false => .next (ask id (.tClose h) (.tRelease cfg h) s)
  | .opened _ | .openFailed | .reply _ | .transferFailed | .released => .fault .answerMismatch

/-- TClose after a rejected configuration has answered (R126): InvalidConfig is raised. -/
def answerRelease (id : Nat) (cfg : BusConfig) (a : Answer) (s : State) : Host.Outcome State Fault Refusal :=
  match a with
  | .released => raiseInflight id (.invalidConfig cfg) s
  | .opened _ | .openFailed | .verdict | .reply _ | .transferFailed => .fault .answerMismatch

/-- Transfer has answered (R127): a three-byte reply is decoded and is READ's result; a failure (R129) or a reply of any
other length (R130) raises TransferFailed, once, without a retry. -/
def answerTransfer (id : Nat) (a : Answer) (s : State) : Host.Outcome State Fault Refusal :=
  match a with
  | .reply bytes =>
    match decode .reply bytes with
    | .instr i => exec i { s with serving := some id }
    | .rejected _ => raiseInflight id .transferFailed s
  | .transferFailed => raiseInflight id .transferFailed s
  | .opened _ | .openFailed | .verdict | .released => .fault .answerMismatch

/-- CLOSE's TClose has answered (R133): the driver is Closed, `h` has no value, `cfg` is kept. -/
def answerClose (id : Nat) (a : Answer) (s : State) : Host.Outcome State Fault Refusal :=
  match a with
  | .released =>
    .next (deliver (some id) .done
      (s.setDriver id { s.driver id with life := .closed, handle := none, inflight := none }))
  | .opened _ | .openFailed | .verdict | .reply _ | .transferFailed => .fault .answerMismatch

/-- The transport answers the request a driver waits on (R120 to R123). -/
def answer (id : Nat) (a : Answer) (s : State) : Host.Outcome State Fault Refusal :=
  match (s.driver id).inflight with
  | none => .fault .unsolicitedAnswer
  | some (.tOpen cfg) => answerOpen id cfg a s
  | some (.tConfigure cfg h) => answerConfigure Config.transportAccepts id cfg h a s
  | some (.tRelease cfg _) => answerRelease id cfg a s
  | some .transfer => answerTransfer id a s
  | some .tClose => answerClose id a s

/-- The call that makes the block run an instruction first: ENCODE of a command row's channel (R91), DECODE of a reply's
bytes. -/
def callOf (i : Instr) : Op :=
  match i with
  | .cmdSeCh1 => .encode 1
  | .cmdSeCh2 => .encode 2
  | .cmdSeCh3 => .encode 3
  | .cmdSeCh4 => .encode 4
  | .cmdSeCh5 => .encode 5
  | .cmdSeCh6 => .encode 6
  | .cmdSeCh7 => .encode 7
  | .cmdSeCh8 => .encode 8
  | .reply r0 r1 r2 => .decode r0 r1 r2

end Sys2Proof.Machine
end

