-- ==== Sys2Proof/Machine/Caller.lean ====
section
/-! DEFINITION. The agents around the block and their turns (00_scope.md rule R8): the sequential caller of R71, which
issues the operations of its program one after another, each after the earlier one has completed (R48), and the transport,
which answers the requests they make (R120 to R123, R131). -/

namespace Sys2Proof.Machine

/-- One program after another. -/
def Program.append : Program → Program → Program
  | .done, q => q
  | .op o p, q => .op o (p.append q)
  | .rep n b p, q => .rep n b (p.append q)
  | .forever b p, q => .forever b (p.append q)

/-- The program has come to its end. -/
def Program.isDone : Program → Bool
  | .done => true
  | .op _ _ | .rep _ _ _ | .forever _ _ => false

/-- The caller can move: none of its operations waits (R48, R131), and its program has not ended. -/
def State.callerReady (s : State) : Bool := !s.busy && !s.program.isDone

/-- The caller's turn: it issues its next operation, or takes one turn of a loop: REPEAT counts down, FOREVER never ends
(R71, R138; log 11). With nothing to issue it waits. -/
def callerStep (s : State) : Host.Outcome State Fault Refusal :=
  match s.program with
  | .done => .next s
  | .op o rest => call o { s with program := rest }
  | .rep 0 _ rest => .next { s with program := rest }
  | .rep (n + 1) body rest => .next { s with program := body.append (.rep n body rest) }
  | .forever body rest => .next { s with program := body.append (.forever body rest) }

/-- The answer a draw gives to a request: one of the kind the transport's contract has for it (R120 to R123). -/
def drawnAnswer (d : Config.Draw) (f : Inflight) : Answer :=
  match f with
  | .tOpen _ => if d.success then .opened d.handle else .openFailed
  | .tConfigure _ _ => .verdict
  | .tRelease _ _ => .released
  | .transfer => if d.success then .reply d.reply else .transferFailed
  | .tClose => .released

/-- A draw of the transport: it answers the driver it names, if that driver waits and may get that answer; otherwise no
answer has come yet. So a drawn handle is never one that another driver owns (R25). -/
def takeDraw (d : Config.Draw) (s : State) : Host.Outcome State Fault Refusal :=
  match (s.driver d.driver).inflight with
  | none => .next s
  | some f =>
    match s.expects d.driver (drawnAnswer d f) with
    | true => answer d.driver (drawnAnswer d f) s
    | false => .next s

/-- The transport's turn, when an operation waits and no input is left. A silent transport never answers (R131); a drawn
one makes its next draw. -/
def transportStep (s : State) : Host.Outcome State Fault Refusal :=
  match s.transport with
  | .silent => .next s
  | .drawn n => takeDraw (Config.draw n) { s with transport := .drawn (n + 1) }

/-- A step with no input left: the transport's turn while an operation waits, the caller's otherwise. -/
def quietStep (s : State) : Host.Outcome State Fault Refusal :=
  match s.busy with
  | true => transportStep s
  | false => callerStep s

/-- A step whose oldest input is an answer: an answer follows its request, so a caller that can move goes first; when it
waits or has ended, the answer is taken. -/
def answerStep (id : Nat) (a : Answer) (rest : List Input) (s : State) : Host.Outcome State Fault Refusal :=
  match s.callerReady with
  | true => callerStep s
  | false => answer id a { s with inputs := rest }

/-- A call put before every other input, so that the next step takes it. -/
def State.callFirst (s : State) (op : Op) : State := { s with inputs := .call op :: s.inputs }

end Sys2Proof.Machine
end

