-- ==== Sys2Proof/Machine/Step.lean ====
section
/-! DEFINITION. One step of the machine. A call that has arrived is taken at once; an answer is taken when the caller
cannot move; with no input it is the turn of the transport, if an operation waits, and of the caller otherwise. Where no
agent can move, the machine waits, and the step changes nothing (log 3). -/

namespace Sys2Proof.Machine

/-- One step. -/
def step (s : State) : Host.Outcome State Fault Refusal :=
  match s.inputs with
  | .call op :: rest => call op { s with inputs := rest }
  | .answer id a :: rest => answerStep id a rest s
  | [] => quietStep s

/-- The state whose next step runs the instruction of a table word: the block fetches no words (R3, R22), so the call
that makes it run the instruction is put first among the inputs (log 8). A word that is no frame leaves the state as it
is. -/
def State.withFetchWord (s : State) (nbits w : Nat) : State :=
  match decodeTableWord nbits w with
  | some i => s.callFirst (callOf i)
  | none => s

end Sys2Proof.Machine
end

