-- ==== Sys2Proof/Safety.lean ====
section
/-! DEFINITION. The terms claims use: what a reachable state looks like, what the block has put on the bus, and when a
run is safe. -/

namespace Sys2Proof.Machine

/-- The table lists strictly rising names and no driver nobody has constructed. -/
def tableWF (t : List (Nat × Driver)) : Prop :=
  t.Pairwise (fun e f => e.1 < f.1) ∧ ∀ e ∈ t, e.2 ≠ Driver.fresh

/-- The fields of one driver fit together: `h` has a value exactly while Open (R25), `cfg` exactly once constructed
(R26, R173), an OPEN in progress belongs to an absent driver and an exchange or a CLOSE to an open one (R124, R127,
R133). -/
def Driver.WF (d : Driver) : Prop :=
  match d.life with
  | .absent =>
    d.handle = none ∧ d.cfg = none ∧ d.inflight ≠ some .transfer ∧ d.inflight ≠ some .tClose
  | .opened =>
    d.handle.isSome ∧ d.cfg.isSome ∧
      (d.inflight = none ∨ d.inflight = some .transfer ∨ d.inflight = some .tClose)
  | .closed => d.handle = none ∧ d.cfg.isSome ∧ d.inflight = none

/-- The frames the block has handed to the transport, in order: the "Bus" of 95_test_vectors.md L3. -/
def busFrames (out : List Output) : List FrameWord :=
  out.filterMap (fun o =>
    match o with
    | .request _ (.transfer _ b0 b1 b2) => some (frameWord b0 b1 b2)
    | _ => none)

/-- The invariant of the machine: the table is in its one form, every driver fits together, no two drivers hold one path
(R161) or own one handle (R25, R30), the codec serves nobody between steps (R28), and only commands of this block are on
the bus (R63, R67). -/
structure State.Inv (s : State) : Prop where
  table : tableWF s.drivers
  driverWF : ∀ id, (s.driver id).WF
  paths : ∀ i j p, (s.driver i).path? = some p → (s.driver j).path? = some p → i = j
  handles : ∀ i j h, (s.driver i).held? = some h → (s.driver j).held? = some h → i = j
  idle : s.serving = none
  bus : ∀ F ∈ busFrames s.outputs, FrameWord.isCommand F = true

/-- Two states that differ at most in what the block has emitted: `s` with other outputs. -/
def State.withOutputs (s : State) (out : List Output) : State := { s with outputs := out }

/-- The three pieces of wrapper state (10_state.md §2) of a driver. -/
def Driver.wrapper (d : Driver) : Life × Option Handle × Option BusConfig := (d.life, d.handle, d.cfg)

/-- The frame map of R66 written out: the row, its channel and its three bytes in bus order. -/
def frameMap : List (Instr × Int × Byte × Byte × Byte) :=
  [(.cmdSeCh1, 1, 0x06#8, 0x00#8, 0x00#8),
   (.cmdSeCh2, 2, 0x06#8, 0x40#8, 0x00#8),
   (.cmdSeCh3, 3, 0x06#8, 0x80#8, 0x00#8),
   (.cmdSeCh4, 4, 0x06#8, 0xC0#8, 0x00#8),
   (.cmdSeCh5, 5, 0x07#8, 0x00#8, 0x00#8),
   (.cmdSeCh6, 6, 0x07#8, 0x40#8, 0x00#8),
   (.cmdSeCh7, 7, 0x07#8, 0x80#8, 0x00#8),
   (.cmdSeCh8, 8, 0x07#8, 0xC0#8, 0x00#8)]

/-- The driver an operation is issued on; ENCODE and DECODE have none (R90). -/
def Op.target? : Op → Option Nat
  | .encode _ | .decode _ _ _ => none
  | .openDriver id _ => some id
  | .read id _ => some id
  | .close id => some id

/-- The operation a step issues: the call it takes from the inputs, or, with no call there and nothing in flight, the next
operation of the caller's program. -/
def State.nextOp? (s : State) : Option Op :=
  match s.inputs with
  | .call op :: _ => some op
  | .answer _ _ :: _ | [] =>
    match s.busy, s.program with
    | false, .op o _ => some o
    | _, _ => none

/-- The driver whose answer a step takes: that of the answer at the head of the inputs, when the caller cannot move; with
no input and an operation waiting, the driver the transport's next draw names. -/
def State.nextAnswered? (s : State) : Option Nat :=
  match s.inputs with
  | .call _ :: _ => none
  | .answer id _ :: _ => if s.callerReady then none else some id
  | [] =>
    match s.busy, s.transport with
    | true, .drawn n => some (Config.draw n).driver
    | _, _ => none

/-- A step is safe when it does not stop the machine with a fault. -/
def State.SafeStep (s : State) : Prop := ∀ f, step s ≠ .fault f

end Sys2Proof.Machine
end

