-- ==== Sys2Proof/Certificates/Slice0/Obligations.lean ====
section
/-! DEFINITION. The statements for the provers. A docstring that says "the spec's own choice" names a rule the spec marks
as its decision; "log n" is a choice of the model. The inputs of a state are arbitrary in every statement, so a
statement holds for every caller and every transport (logs 2, 14). -/

open Sys2Proof Sys2Proof.Machine

/-- The bit layouts written out as words decode to their rows: the eight commands of 30_encoding.md §5 and three replies
(the table gives no direction: log 7). -/
def Obligations.TableWordsDecodeToTheirRows : Prop :=
  decodeTableWord 24 0b000001100000000000000000 = some .cmdSeCh1 ∧
  decodeTableWord 24 0b000001100100000000000000 = some .cmdSeCh2 ∧
  decodeTableWord 24 0b000001101000000000000000 = some .cmdSeCh3 ∧
  decodeTableWord 24 0b000001101100000000000000 = some .cmdSeCh4 ∧
  decodeTableWord 24 0b000001110000000000000000 = some .cmdSeCh5 ∧
  decodeTableWord 24 0b000001110100000000000000 = some .cmdSeCh6 ∧
  decodeTableWord 24 0b000001111000000000000000 = some .cmdSeCh7 ∧
  decodeTableWord 24 0b000001111100000000000000 = some .cmdSeCh8 ∧
  decodeTableWord 24 0b111111110000001110100101 = some (.reply 0xFF 0x03 0xA5) ∧
  decodeTableWord 24 0b000001000000000000000000 = some (.reply 0x04 0x00 0x00) ∧
  decodeTableWord 24 0 = some (.reply 0 0 0)

/-- Decode and encode agree both ways, in each direction of travel: bytes decode to an instruction exactly when they are
that instruction's frame (so no bit is dropped and nothing else is accepted), and every instruction is well formed. -/
def Obligations.DecodeAndEncodeAgree : Prop :=
  (∀ (i : Instr), i.WellFormed = true ∧ decode i.direction (encode i) = .instr i) ∧
  ∀ (d : Direction) (bytes : List Byte) (i : Instr),
    decode d bytes = .instr i → i.direction = d ∧ encode i = bytes

/-- The legality check of commands accepts exactly the eight frames of the frame map, which are the words that match
0x060000 under the mask 0xFE3FFF, and rejects every other word by name (30_encoding.md §2, §6). -/
def Obligations.CommandCheckAcceptsExactlyTheEight : Prop :=
  ∀ (b0 b1 b2 : Byte),
    ((∃ i, decode .command [b0, b1, b2] = .instr i) ↔ (∃ r ∈ frameMap, r.2.2 = (b0, b1, b2))) ∧
    ((∃ i, decode .command [b0, b1, b2] = .instr i) ↔ frameWord b0 b1 b2 &&& 0xFE3FFF#24 = 0x060000#24) ∧
    (¬ (∃ i, decode .command [b0, b1, b2] = .instr i) →
      decode .command [b0, b1, b2] = .rejected (.notACommand (frameWord b0 b1 b2)))

/-- R84, R85: bytes 0 and 1 of a selector's command frame, each with the formula, its equivalent layout, its values and its
zero bits; and byte 2, always 0x00 (40_encoder.md §1). -/
def Obligations.CommandBytesFollowTheirFormulas : Prop :=
  ∀ (s : Selector),
    ((commandFrame s).b0.toNat = (1 <<< 2) ||| (1 <<< 1) ||| ((s.toNat &&& 0b100) >>> 2) ∧
      (commandFrame s).b0 = 0b00000#5 ++ 1#1 ++ 1#1 ++ s.extractLsb' 2 1 ∧
      (s.toNat ≤ 3 → (commandFrame s).b0 = 0x06#8) ∧ (4 ≤ s.toNat → (commandFrame s).b0 = 0x07#8) ∧
      (commandFrame s).b0.extractLsb' 3 5 = 0#5) ∧
    ((commandFrame s).b1.toNat = (((s.toNat &&& 0b010) >>> 1) <<< 7) ||| ((s.toNat &&& 0b001) <<< 6) ∧
      (commandFrame s).b1 = s.extractLsb' 1 1 ++ s.extractLsb' 0 1 ++ 0b000000#6 ∧
      (commandFrame s).b1 ∈ [0x00#8, 0x40#8, 0x80#8, 0xC0#8] ∧
      (commandFrame s).b1.extractLsb' 0 6 = 0#6) ∧
    (commandFrame s).b2 = 0x00#8

/-- Running a command row as the caller's own ENCODE completes in every such state with exactly the row's frame as the
result, and changes nothing else. The frame map rests on the spec's own choice s = channel - 1 (D1). -/
def Obligations.CommandRowsReturnTheirFrame : Prop :=
  ∀ (s : State), s.serving = none → ∀ r ∈ frameMap,
    exec r.1 s =
      .next { s with outputs := s.outputs ++ [.result none (.frame r.2.2.1 r.2.2.2.1 r.2.2.2.2)] }

/-- Running a command row inside the READ of a driver with a handle completes: exactly one Transfer of the row's three
bytes, in bus order, on that handle, after which the driver waits; no other driver, no wrapper state, no input and no
program changes. -/
def Obligations.CommandRowsTransferInsideARead : Prop :=
  ∀ (s : State) (id : Nat) (h : Handle), s.serving = some id → (s.driver id).handle = some h → ∀ r ∈ frameMap,
    ∃ t, exec r.1 s = .next t ∧
      t.outputs = s.outputs ++ [.request id (.transfer h r.2.2.1 r.2.2.2.1 r.2.2.2.2)] ∧
      t.driver id = { s.driver id with inflight := some .transfer } ∧
      (∀ j, j ≠ id → t.driver j = s.driver j) ∧
      t.serving = none ∧ t.inputs = s.inputs ∧ t.transport = s.transport ∧ t.program = s.program

/-- A command row run for a driver whose handle has no value stops by name. The stop is the model's own choice (log 9):
70_reset_and_hazards.md §1 calls such a read an error of the model that the rules never make, and gives no stop. -/
def Obligations.CommandRowsStopWithoutAHandle : Prop :=
  ∀ (s : State) (id : Nat), s.serving = some id → (s.driver id).handle = none → ∀ r ∈ frameMap,
    exec r.1 s = .fault .undefinedRead

/-- R101: REPLY, as the caller's own DECODE, completes with the sample of the formula and of its equivalent layout, and
changes nothing else. -/
def Obligations.ReplyReturnsItsSample : Prop :=
  ∀ (s : State) (r0 r1 r2 : Byte), s.serving = none →
    ∃ v : Sample,
      exec (.reply r0 r1 r2) s = .next { s with outputs := s.outputs ++ [.result none (.sample v)] } ∧
      v.toNat = ((r1.toNat &&& 0x0F) <<< 8) ||| r2.toNat ∧
      v.extractLsb' 8 4 = r1.extractLsb' 0 4 ∧ v.extractLsb' 0 8 = r2

/-- REPLY inside the READ of a driver completes that READ with the sample: nothing is in flight on the driver any more,
its wrapper state and every other driver are unchanged. -/
def Obligations.ReplyCompletesARead : Prop :=
  ∀ (s : State) (id : Nat) (r0 r1 r2 : Byte), s.serving = some id →
    ∃ (t : State) (v : Sample), exec (.reply r0 r1 r2) s = .next t ∧
      v.toNat = ((r1.toNat &&& 0x0F) <<< 8) ||| r2.toNat ∧
      t.outputs = s.outputs ++ [.result (some id) (.sample v)] ∧
      t.driver id = { s.driver id with inflight := none } ∧
      (∀ j, j ≠ id → t.driver j = s.driver j) ∧
      t.serving = none ∧ t.inputs = s.inputs ∧ t.transport = s.transport ∧ t.program = s.program

/-- R69, R102, R103: every three bytes are a legal reply and run in every state; r0 and r1[7:4] may hold any value and
change nothing; the result lies in [0, 4095]; all ones give 4095 and all zeros give 0. -/
def Obligations.EveryReplyDecodes : Prop :=
  ∀ (s : State),
    (∀ r0 r1 r2 : Byte, decode .reply [r0, r1, r2] = .instr (.reply r0 r1 r2) ∧
      ∃ (t : State) (v : Sample), exec (.reply r0 r1 r2) s = .next t ∧
        t.outputs = s.outputs ++ [.result s.serving (.sample v)] ∧ v.toNat ≤ 4095) ∧
    (∀ r0 r0' r1 r1' r2 : Byte, r1 &&& 0x0F#8 = r1' &&& 0x0F#8 →
      exec (.reply r0 r1 r2) s = exec (.reply r0' r1' r2) s) ∧
    (∃ t, exec (.reply 0xFF 0xFF 0xFF) s = .next t ∧
      t.outputs = s.outputs ++ [.result s.serving (.sample 4095#12)]) ∧
    (∃ t, exec (.reply 0 0 0) s = .next t ∧ t.outputs = s.outputs ++ [.result s.serving (.sample 0#12)])

/-- The decoder depends on exactly the twelve bits r1[3:0] and r2, and is a bijection from them onto [0, 4095]
(41_decoder.md §3). -/
def Obligations.DecodeIsABijectionOnTwelveBits : Prop :=
  (∀ r0 r1 r2 r0' r1' r2' : Byte,
    decodeSample r0 r1 r2 = decodeSample r0' r1' r2' ↔ r1.extractLsb' 0 4 = r1'.extractLsb' 0 4 ∧ r2 = r2') ∧
  (∀ (V : Nat) (r0 : Byte), V ≤ 4095 →
    (decodeSample r0 (BitVec.ofNat 8 ((V >>> 8) &&& 0x0F)) (BitVec.ofNat 8 (V &&& 0xFF))).toNat = V)

/-- R81: ENCODE of an integer gives a frame exactly when 1 <= channel <= 8; every other integer gets InvalidChannel with
its own value. In every state; nothing else changes. -/
def Obligations.EncodeIsLegalExactlyOnOneToEight : Prop :=
  ∀ (s : State) (rest : List Input) (channel : Int), s.inputs = .call (.encode channel) :: rest →
    (1 ≤ channel ∧ channel ≤ 8 → ∃ b0 b1 b2 : Byte,
      step s = .next { s with inputs := rest, serving := none,
                              outputs := s.outputs ++ [.result none (.frame b0 b1 b2)] }) ∧
    (¬ (1 ≤ channel ∧ channel ≤ 8) →
      step s = .next { s with inputs := rest, serving := none,
                              outputs := s.outputs ++ [.result none (.error (.invalidChannel channel))] })

/-- R89: ENCODE's result depends on its channel alone: in any two states, whatever their drivers, configurations, inputs
and past, the same result comes back, and nothing else changes. -/
def Obligations.EncodeDependsOnTheChannelAlone : Prop :=
  ∀ (channel : Int), ∃ r : Result, ∀ (s : State) (rest : List Input),
    s.inputs = .call (.encode channel) :: rest →
    step s = .next { s with inputs := rest, serving := none, outputs := s.outputs ++ [.result none r] }

/-- Distinct legal channels have distinct frames, the channel of a frame is F[16:14] + 1, and every frame has its start
and single-ended bits set and every fixed bit clear (40_encoder.md §3). Rests on the spec's own choice D1. -/
def Obligations.FramesNameTheirChannel : Prop :=
  (∀ c c' : Int, LegalChannel c → LegalChannel c' → encodeChannel c = encodeChannel c' → c = c') ∧
  (∀ (c : Int) (f : CommandFrame), encodeChannel c = some f →
    (((frameWord f.b0 f.b1 f.b2).extractLsb' 14 3).toNat : Int) + 1 = c ∧
    f.b2 = 0x00#8 ∧ f.b0.extractLsb' 1 2 = 0b11#2 ∧ f.b0.extractLsb' 3 5 = 0#5 ∧ f.b1.extractLsb' 0 6 = 0#6)

/-- The ports of ENC and DEC are the operations' combinational forms (30_encoding.md §1). The zero bytes beside ch_err = 1
are the spec's own choice (D3), the port widths too (D2). -/
def Obligations.PortsAreTheOperations : Prop :=
  (∀ r ∈ frameMap, encPorts (BitVec.ofInt 8 r.2.1) =
    { cmd0 := r.2.2.1, cmd1 := r.2.2.2.1, cmd2 := r.2.2.2.2, chErr := false }) ∧
  (∀ x : BitVec 8, ¬ (1 ≤ x.toNat ∧ x.toNat ≤ 8) →
    encPorts x = { cmd0 := 0x00#8, cmd1 := 0x00#8, cmd2 := 0x00#8, chErr := true }) ∧
  (∀ (r0 r1 r2 : Byte) (s : State), s.serving = none → ∃ v : Sample, decPort r0 r1 r2 = v ∧
    v.extractLsb' 8 4 = r1.extractLsb' 0 4 ∧ v.extractLsb' 0 8 = r2 ∧
    ∃ t, exec (.reply r0 r1 r2) s = .next t ∧ t.outputs = s.outputs ++ [.result none (.sample v)])

/-- A step at a table word's state is exec of the word's instruction there, for every state and every instruction
(the fetch stands for the call that runs it: log 8). -/
def Obligations.StepRunsTheFetchedInstruction : Prop :=
  ∀ (s : State) (nbits w : Nat) (i : Instr), decodeTableWord nbits w = some i →
    step (s.withFetchWord nbits w) = exec i { s with serving := none }

/-- Wherever a step meets a frame it runs the instruction its bytes decode to: the bytes of a DECODE, the frame ENC makes
for an ENCODE or for the READ of an open idle driver, and the transport's reply to a READ. What the step adds is taking
the input and marking for whom the codec runs. -/
def Obligations.StepRunsTheDecodedInstruction : Prop :=
  ∀ (s : State) (rest : List Input) (i : Instr),
    (∀ r0 r1 r2 : Byte, s.inputs = .call (.decode r0 r1 r2) :: rest → decode .reply [r0, r1, r2] = .instr i →
      step s = exec i { s with inputs := rest, serving := none }) ∧
    (∀ (c : Int) (f : CommandFrame), s.inputs = .call (.encode c) :: rest → encodeChannel c = some f →
      decode .command [f.b0, f.b1, f.b2] = .instr i →
      step s = exec i { s with inputs := rest, serving := none }) ∧
    (∀ (id : Nat) (c : Int) (f : CommandFrame), s.inputs = .call (.read id c) :: rest →
      (s.driver id).life = .opened → (s.driver id).inflight = none → encodeChannel c = some f →
      decode .command [f.b0, f.b1, f.b2] = .instr i →
      step s = exec i { s with inputs := rest, serving := some id }) ∧
    (∀ (id : Nat) (bytes : List Byte), s.inputs = .answer id (.reply bytes) :: rest →
      (s.driver id).inflight = some .transfer → decode .reply bytes = .instr i →
      step s = exec i { s with inputs := rest, serving := some id })

/-- R125: OPEN on a free name and path asks TOpen with every omitted field at its default, and waits; nothing else
changes. (That a path must be free is the spec's own choice D23, and until when it counts as taken the model's: log 4.) -/
def Obligations.OpenFillsDefaultsAndAsks : Prop :=
  ∀ (s : State) (rest : List Input) (id : Nat) (args : ConfigArgs) (cfg : BusConfig),
    s.inputs = .call (.openDriver id args) :: rest →
    (s.driver id).life = .absent → (s.driver id).inflight = none →
    cfg = { bus := args.bus.getD 0, device := args.device.getD 0, mode := args.mode.getD 0,
            bitsPerWord := args.bitsPerWord.getD 8, maxClockHz := args.maxClockHz.getD 500000 } →
    s.pathTaken id (cfg.bus, cfg.device) = false →
    ∃ t, step s = .next t ∧
      t.outputs = s.outputs ++ [.request id (.tOpen cfg.bus cfg.device)] ∧
      t.driver id = { s.driver id with inflight := some (.tOpen cfg) } ∧
      (∀ j, j ≠ id → t.driver j = s.driver j) ∧
      t.serving = s.serving ∧ t.inputs = rest ∧ t.transport = s.transport ∧ t.program = s.program

/-- R172: after an OPEN whose TOpen returned h and whose TConfigure returned ok, the driver is Open with handle h and the
requested configuration, omitted fields at their defaults; with every field omitted that is 0, 0, 0, 8, 500000. The handle
is one no other driver owns (R25, log 13), and TConfigure returns ok when the free parameter TRANSPORT_ACCEPTS holds of the
configuration (log 6). -/
def Obligations.SuccessfulOpenLeavesTheDriverOpen : Prop :=
  ∀ (s : State) (rest : List Input) (id : Nat) (args : ConfigArgs) (h : Handle),
    s.inputs = .call (.openDriver id args) :: .answer id (.opened h) :: .answer id .verdict :: rest →
    s.driver id = Driver.fresh →
    s.pathTaken id ((fillDefaults args).bus, (fillDefaults args).device) = false →
    s.handleTaken id h = false →
    Config.transportAccepts (fillDefaults args) = true →
    ∃ t, core.run 3 s = .next t ∧
      t.driver id = { life := .opened, handle := some h, cfg := some (fillDefaults args), inflight := none } ∧
      fillDefaults args = { bus := args.bus.getD 0, device := args.device.getD 0, mode := args.mode.getD 0,
                            bitsPerWord := args.bitsPerWord.getD 8,
                            maxClockHz := args.maxClockHz.getD 500000 } ∧
      fillDefaults {} = { bus := 0, device := 0, mode := 0, bitsPerWord := 8, maxClockHz := 500000 } ∧
      t.outputs = s.outputs ++
        [.request id (.tOpen (fillDefaults args).bus (fillDefaults args).device),
         .request id (.tConfigure h (fillDefaults args).mode (fillDefaults args).bitsPerWord
           (fillDefaults args).maxClockHz),
         .result (some id) .created] ∧
      (∀ j, j ≠ id → t.driver j = s.driver j) ∧ t.inputs = rest ∧ t.transport = s.transport ∧ t.program = s.program

/-- An OPEN whose TOpen fails raises TransportUnavailable with the bus and device asked for; TConfigure is not asked, and
every driver, this one included, is as before the operation (42_transaction.md §1, §2). -/
def Obligations.FailedOpenRaisesTransportUnavailable : Prop :=
  ∀ (s : State) (rest : List Input) (id : Nat) (args : ConfigArgs),
    s.inputs = .call (.openDriver id args) :: .answer id .openFailed :: rest →
    s.driver id = Driver.fresh →
    s.pathTaken id ((fillDefaults args).bus, (fillDefaults args).device) = false →
    ∃ t, core.run 2 s = .next t ∧
      t.outputs = s.outputs ++
        [.request id (.tOpen (fillDefaults args).bus (fillDefaults args).device),
         .result (some id)
           (.error (.transportUnavailable (fillDefaults args).bus (fillDefaults args).device))] ∧
      (∀ j, t.driver j = s.driver j) ∧ t.inputs = rest ∧ t.transport = s.transport ∧ t.program = s.program

/-- An OPEN whose configuration is rejected releases the opened handle with TClose and then raises InvalidConfig with the
requested configuration; every driver, this one included, is as before the operation. The release is the spec's own
choice (D9). The handle is one no other driver owns (R25, log 13); the verdict is the free parameter TRANSPORT_ACCEPTS (log 6). -/
def Obligations.RejectedConfigReleasesTheHandle : Prop :=
  ∀ (s : State) (rest : List Input) (id : Nat) (args : ConfigArgs) (h : Handle),
    s.inputs = .call (.openDriver id args) :: .answer id (.opened h) :: .answer id .verdict ::
      .answer id .released :: rest →
    s.driver id = Driver.fresh →
    s.pathTaken id ((fillDefaults args).bus, (fillDefaults args).device) = false →
    s.handleTaken id h = false →
    Config.transportAccepts (fillDefaults args) = false →
    ∃ t, core.run 4 s = .next t ∧
      t.outputs = s.outputs ++
        [.request id (.tOpen (fillDefaults args).bus (fillDefaults args).device),
         .request id (.tConfigure h (fillDefaults args).mode (fillDefaults args).bitsPerWord
           (fillDefaults args).maxClockHz),
         .request id (.tClose h),
         .result (some id) (.error (.invalidConfig (fillDefaults args)))] ∧
      (∀ j, t.driver j = s.driver j) ∧ t.inputs = rest ∧ t.transport = s.transport ∧ t.program = s.program

/-- Whichever configurations a transport accepts (TRANSPORT_ACCEPTS, 42_transaction.md §1), the block follows its verdict
and checks no field itself: the driver opens exactly when the transport accepts; and a step that takes TConfigure's answer
does so for the machine's own parameter (log 6). That a rejected configuration has its handle released with TClose, for
which the driver then waits, is the spec's own choice D9 (42_transaction.md §2, logs 10 and 12). -/
def Obligations.OpenFollowsTheTransportsVerdict : Prop :=
  (∀ (accepts : BusConfig → Bool) (s : State) (id : Nat) (cfg : BusConfig) (h : Handle),
    ∃ t, answerConfigure accepts id cfg h .verdict s = .next t ∧
      (accepts cfg = true →
        t.driver id = { life := .opened, handle := some h, cfg := some cfg, inflight := none } ∧
        t.outputs = s.outputs ++ [.result (some id) .created]) ∧
      (accepts cfg = false →
        t.driver id = { s.driver id with inflight := some (.tRelease cfg h) } ∧
        t.outputs = s.outputs ++ [.request id (.tClose h)]) ∧
      (∀ j, j ≠ id → t.driver j = s.driver j) ∧
      t.inputs = s.inputs ∧ t.transport = s.transport ∧ t.program = s.program) ∧
  (∀ (s : State) (rest : List Input) (id : Nat) (cfg : BusConfig) (h : Handle),
    (s.driver id).inflight = some (.tConfigure cfg h) → s.inputs = .answer id .verdict :: rest →
    step s = answerConfigure Config.transportAccepts id cfg h .verdict { s with inputs := rest })

/-- TRANSPORT_ACCEPTS is one parameter of the machine (00_scope.md §3, D11): of two steps in which TConfigure answers for
the same configuration, in any states and for any drivers and handles, both complete their OPENs or neither does. -/
def Obligations.OneVerdictPerConfiguration : Prop :=
  ∀ (s s' : State) (rest rest' : List Input) (id id' : Nat) (cfg : BusConfig) (h h' : Handle),
    (s.driver id).inflight = some (.tConfigure cfg h) → s.inputs = .answer id .verdict :: rest →
    (s'.driver id').inflight = some (.tConfigure cfg h') → s'.inputs = .answer id' .verdict :: rest' →
    ∃ t t', step s = .next t ∧ step s' = .next t' ∧
      (t.outputs = s.outputs ++ [.result (some id) .created] ↔
        t'.outputs = s'.outputs ++ [.result (some id') .created])

/-- READ and CLOSE on a closed driver raise NotOpen before anything else, whatever the channel; no request is made and no
driver changes. The order and the second CLOSE are the spec's own choices (D6, D8). -/
def Obligations.ClosedDriversRaiseNotOpen : Prop :=
  ∀ (s : State) (rest : List Input) (id : Nat) (op : Op), (op = .close id ∨ ∃ c, op = .read id c) →
    s.inputs = .call op :: rest → (s.driver id).life = .closed →
    step s = .next { s with inputs := rest, serving := none,
                            outputs := s.outputs ++ [.result (some id) (.error .notOpen)] }

/-- R136: READ of an illegal channel on an open driver returns InvalidChannel and does not end the machine: the driver is
as it was, still Open, and a READ of a legal channel after it goes out. -/
def Obligations.InvalidChannelIsRecoverable : Prop :=
  ∀ (s : State) (rest : List Input) (id : Nat) (c c' : Int) (h : Handle),
    s.inputs = .call (.read id c) :: .call (.read id c') :: rest →
    (s.driver id).life = .opened → (s.driver id).inflight = none → (s.driver id).handle = some h →
    ¬ (1 ≤ c ∧ c ≤ 8) → 1 ≤ c' ∧ c' ≤ 8 →
    ∃ (t u : State) (b0 b1 b2 : Byte),
      step s = .next t ∧ t.outputs = s.outputs ++ [.result (some id) (.error (.invalidChannel c))] ∧
      (∀ j, t.driver j = s.driver j) ∧ (t.driver id).life = .opened ∧
      step t = .next u ∧ u.outputs = t.outputs ++ [.request id (.transfer h b0 b1 b2)]

/-- READ of a legal channel on an open idle driver makes exactly one Transfer, of that channel's frame on the driver's
handle, and waits; nothing else changes. The frame map rests on the spec's own choice D1. -/
def Obligations.ReadMakesOneTransfer : Prop :=
  ∀ (s : State) (rest : List Input) (id : Nat) (h : Handle), ∀ r ∈ frameMap,
    s.inputs = .call (.read id r.2.1) :: rest →
    (s.driver id).life = .opened → (s.driver id).inflight = none → (s.driver id).handle = some h →
    ∃ t, step s = .next t ∧
      t.outputs = s.outputs ++ [.request id (.transfer h r.2.2.1 r.2.2.2.1 r.2.2.2.2)] ∧
      t.driver id = { s.driver id with inflight := some .transfer } ∧
      (∀ j, j ≠ id → t.driver j = s.driver j) ∧
      t.serving = none ∧ t.inputs = rest ∧ t.transport = s.transport ∧ t.program = s.program

/-- The round trip: under a transport that answers with r1 = (V >> 8) & 0x0F and r2 = V & 0xFF, READ of every legal
channel returns exactly V, for every V in [0, 4095] and any r0, and the driver is as before (42_transaction.md §5). -/
def Obligations.ReadReturnsTheTransportsValue : Prop :=
  ∀ (s : State) (rest : List Input) (id : Nat) (h : Handle) (c : Int) (V : Nat) (r0 : Byte),
    1 ≤ c → c ≤ 8 → V ≤ 4095 →
    s.inputs = .call (.read id c) ::
      .answer id (.reply [r0, BitVec.ofNat 8 ((V >>> 8) &&& 0x0F), BitVec.ofNat 8 (V &&& 0xFF)]) :: rest →
    (s.driver id).life = .opened → (s.driver id).inflight = none → (s.driver id).handle = some h →
    ∃ (t : State) (b0 b1 b2 : Byte) (v : Sample), core.run 2 s = .next t ∧ v.toNat = V ∧
      t.outputs = s.outputs ++ [.request id (.transfer h b0 b1 b2), .result (some id) (.sample v)] ∧
      (∀ j, t.driver j = s.driver j) ∧ t.serving = none ∧ t.inputs = rest ∧ t.transport = s.transport ∧ t.program = s.program

/-- An exchange that failed, or whose reply is not three bytes, raises TransferFailed once: no second Transfer, the wrapper
state unchanged, nothing in flight. That the driver stays Open and that a wrong length is a failure are the spec's own
choices (D10, D28). -/
def Obligations.FailedExchangeRaisesTransferFailed : Prop :=
  ∀ (s : State) (rest : List Input) (id : Nat) (a : Answer),
    (a = .transferFailed ∨ ∃ bytes : List Byte, a = .reply bytes ∧ bytes.length ≠ 3) →
    s.inputs = .answer id a :: rest → (s.driver id).inflight = some .transfer →
    ∃ t, step s = .next t ∧
      t.outputs = s.outputs ++ [.result (some id) (.error .transferFailed)] ∧
      t.driver id = { s.driver id with inflight := none } ∧
      (∀ j, j ≠ id → t.driver j = s.driver j) ∧ t.inputs = rest ∧ t.transport = s.transport ∧ t.program = s.program

/-- R132: a READ has no effect beyond its exchange and its result. Whatever a step does with a READ it issues or with the
answer a READ's exchange gets, given or drawn, every driver keeps its life, handle and configuration, and the block emits
exactly one thing: the Transfer, a sample in [0, 4095], or one error, which is never a sample. -/
def Obligations.ReadOnlyExchangesAndReturns : Prop :=
  ∀ (s t : State) (id : Nat),
    ((∃ c, s.nextOp? = some (.read id c)) ∨
      (s.nextAnswered? = some id ∧ (s.driver id).inflight = some .transfer)) →
    step s = .next t →
    (∀ j, (t.driver j).life = (s.driver j).life ∧ (t.driver j).handle = (s.driver j).handle ∧
      (t.driver j).cfg = (s.driver j).cfg) ∧
    ∃ o, t.outputs = s.outputs ++ [o] ∧
      ((∃ h b0 b1 b2, o = .request id (.transfer h b0 b1 b2) ∧ (s.driver id).handle = some h) ∨
       (∃ v : Sample, o = .result (some id) (.sample v) ∧ v.toNat ≤ 4095) ∨
       (∃ e : Error, o = .result (some id) (.error e) ∧
         (e = .notOpen ∨ e = .transferFailed ∨ ∃ c, e = .invalidChannel c)))

/-- CLOSE on an open idle driver asks TClose on its handle; when the transport has released it the driver is Closed, its
handle has no value, its configuration is kept, and the caller gets no value (42_transaction.md §4). -/
def Obligations.CloseReleasesTheHandle : Prop :=
  ∀ (s : State) (rest : List Input) (id : Nat) (h : Handle),
    s.inputs = .call (.close id) :: .answer id .released :: rest →
    (s.driver id).life = .opened → (s.driver id).inflight = none → (s.driver id).handle = some h →
    ∃ t, core.run 2 s = .next t ∧
      t.outputs = s.outputs ++ [.request id (.tClose h), .result (some id) .done] ∧
      t.driver id = { life := .closed, handle := none, cfg := (s.driver id).cfg, inflight := none } ∧
      (∀ j, j ≠ id → t.driver j = s.driver j) ∧ t.inputs = rest ∧ t.transport = s.transport ∧ t.program = s.program

/-- The refusals: READ and CLOSE on an absent driver, OPEN on an existing one, any operation on a driver that waits on the
transport, OPEN on a path another driver holds or is opening. That these are refused is the spec's own choice (D7, D23).
The model's own choice (log 4) is that a path counts as taken already while another driver is opening it, and still while
it is releasing it, and that an operation on a driver in construction is named an overlap. -/
def Obligations.RefusedCases : Prop :=
  ∀ (s : State) (rest : List Input) (id : Nat) (op : Op), op.target? = some id → s.inputs = .call op :: rest →
    ((s.driver id).life = .absent → (s.driver id).inflight = none → (op = .close id ∨ ∃ c, op = .read id c) →
      step s = .refused .noDriver) ∧
    ((s.driver id).life ≠ .absent → (∃ args, op = .openDriver id args) → step s = .refused .driverExists) ∧
    ((s.driver id).life = .absent → (s.driver id).inflight.isSome → step s = .refused .overlap) ∧
    ((s.driver id).life = .opened → (s.driver id).inflight.isSome → (op = .close id ∨ ∃ c, op = .read id c) →
      step s = .refused .overlap) ∧
    (∀ args, op = .openDriver id args → (s.driver id).life = .absent → (s.driver id).inflight = none →
      (∃ j, j ≠ id ∧ (s.driver j).path? = some ((fillDefaults args).bus, (fillDefaults args).device)) →
      step s = .refused .sharedPath)

/-- A hang: while the transport is silent and nothing arrives, a machine with an operation in flight stays as it is for
any number of steps; no timeout ends the operation and the caller issues nothing further (42_transaction.md §3; the
waiting step is log 3). -/
def Obligations.AHungRequestWaitsForever : Prop :=
  ∀ (s : State) (id : Nat) (n : Nat), s.inputs = [] → s.transport = .silent → (s.driver id).inflight.isSome →
    core.run n s = .next s

/-- Errors are precise: a step that hands out an error leaves the life, handle and configuration of every driver, and all
of every driver but the one whose operation it ends, which then waits on nothing or is as it was (60_exceptions.md
§4). -/
def Obligations.ErrorsChangeNoWrapperState : Prop :=
  ∀ (s t : State) (who : Option Nat) (e : Error), step s = .next t →
    t.outputs = s.outputs ++ [.result who (.error e)] →
    t.serving = none ∧
    ∀ j, (t.driver j).life = (s.driver j).life ∧ (t.driver j).handle = (s.driver j).handle ∧
      (t.driver j).cfg = (s.driver j).cfg ∧
      (some j ≠ who → t.driver j = s.driver j) ∧ (some j = who → (t.driver j).inflight = none ∨
        (t.driver j).inflight = (s.driver j).inflight)

/-- The five errors have the codes 1 to 5, code 0 is every result that is no error, and a code names one kind of error.
The numbers are the spec's own choice (D5). -/
def Obligations.OutcomeCodes : Prop :=
  (∀ r : Result, r.code = 0 ↔ ∀ e, r ≠ .error e) ∧
  (∀ (b d : Nat), (Result.error (.transportUnavailable b d)).code = 1) ∧
  (∀ c : BusConfig, (Result.error (.invalidConfig c)).code = 2) ∧
  (∀ c : Int, (Result.error (.invalidChannel c)).code = 3) ∧
  (Result.error .transferFailed).code = 4 ∧ (Result.error .notOpen).code = 5

/-- The invariant of the machine holds at reset. What the invariant takes from the model's own choices stands at
StepKeepsTheInvariant; the reset values of the model's own fields are logs 5 and 14. -/
def Obligations.ResetMeetsTheInvariant : Prop := State.reset.Inv

/-- Every step keeps the invariant: the table of drivers in its one form, every driver's life, handle, configuration and
in-flight request fitting together, no two drivers on one path or with one handle, the codec serving nobody between steps,
and only the eight commands on the bus (10_state.md §2 and §3, 30_encoding.md §6, 60_exceptions.md §5). That two drivers on
one path are refused is the spec's own choice (D23). The table's form, and that a path counts as held (`path?`) already in
construction and until TClose has returned, are the model's own choice (log 4); so is that a handle counts as owned (`held?`)
for that span (log 13), and the field that says whom the codec serves (logs 1 and 5). -/
def Obligations.StepKeepsTheInvariant : Prop := ∀ s t : State, s.Inv → step s = .next t → t.Inv

/-- R171: at the start every driver is Absent with handle and configuration without a value, and from any state on a
driver leaves Absent only in the step in which an OPEN succeeds and returns it. -/
def Obligations.DriversExistOnlyAfterASuccessfulOpen : Prop :=
  (∀ id, (State.reset.driver id).life = .absent ∧ (State.reset.driver id).handle = none ∧
    (State.reset.driver id).cfg = none) ∧
  ∀ (s t : State) (id : Nat), s.Inv → step s = .next t →
    (s.driver id).life = .absent → (t.driver id).life ≠ .absent →
    (t.driver id).life = .opened ∧ t.outputs = s.outputs ++ [.result (some id) .created] ∧
    ∃ cfg h, (s.driver id).inflight = some (.tConfigure cfg h) ∧ (t.driver id).cfg = some cfg ∧
      (t.driver id).handle = some h

/-- The lifecycle: a step leaves a driver's life as it is, opens an absent driver or closes an open one; nothing leaves
Closed. The three states are the spec's own choice (D7). -/
def Obligations.LifecycleTransitions : Prop :=
  ∀ (s t : State) (id : Nat), s.Inv → step s = .next t →
    (t.driver id).life = (s.driver id).life ∨
    ((s.driver id).life = .absent ∧ (t.driver id).life = .opened) ∨
    ((s.driver id).life = .opened ∧ (t.driver id).life = .closed)

/-- The configuration is written once, by a successful OPEN, and is read-only afterwards, CLOSE included; the handle stays
the same until CLOSE releases it (10_state.md §2). -/
def Obligations.ConfigurationIsWrittenOnce : Prop :=
  ∀ (s t : State) (id : Nat), s.Inv → step s = .next t → (s.driver id).life ≠ .absent →
    (t.driver id).cfg = (s.driver id).cfg ∧
    ((t.driver id).life = .opened → (t.driver id).handle = (s.driver id).handle) ∧
    ((t.driver id).life = .closed → (t.driver id).handle = none)

/-- Drivers share no state: a step that neither issues an operation on a driver nor takes an answer for it, given or
drawn, leaves that driver as it is; so no operation on one driver touches another, and the caller's own ENCODE and DECODE
touch none (60_exceptions.md §5, the spec's own choice D23). -/
def Obligations.DriversAreIndependent : Prop :=
  ∀ (s t : State) (j : Nat), step s = .next t →
    (∀ op, s.nextOp? = some op → op.target? ≠ some j) →
    s.nextAnswered? ≠ some j →
    t.driver j = s.driver j

/-- What has been sent and returned is no state: a step's outcome does not depend on it, so no operation observes the
frame or the sample of an earlier READ (10_state.md §2), and a step only ever appends to it. -/
def Obligations.PastFramesAreUnobservable : Prop :=
  ∀ (s : State) (past : List Output),
    match step (s.withOutputs []) with
    | .next t => step (s.withOutputs past) = .next (t.withOutputs (past ++ t.outputs))
    | .fault f => step (s.withOutputs past) = .fault f
    | .refused r => step (s.withOutputs past) = .refused r

/-- Traffic on the bus comes from READs alone: a step either puts no frame on it, or issues a READ of a legal channel on
an open idle driver, puts exactly that channel's frame on it and leaves the driver waiting (42_transaction.md §3; that an
illegal channel sends nothing is the spec's own choice D3). -/
def Obligations.OnlyReadsReachTheBus : Prop :=
  ∀ (s t : State), step s = .next t →
    busFrames t.outputs = busFrames s.outputs ∨
    ∃ (id : Nat), ∃ r ∈ frameMap, s.nextOp? = some (.read id r.2.1) ∧
      (s.driver id).life = .opened ∧ (s.driver id).inflight = none ∧
      (t.driver id).inflight = some .transfer ∧
      busFrames t.outputs = busFrames s.outputs ++ [frameWord r.2.2.1 r.2.2.2.1 r.2.2.2.2]

/-- When the caller cannot move, an answer at the head of the inputs is taken with a next state exactly when its driver
waits for an answer of that kind and a handle it brings is owned by no other driver (42_transaction.md §1, 10_state.md §2).
The contract says what each request may be answered; that any other answer gets no next state is the model's own choice
(logs 9 and 13). An answer whose request the caller may still make waits: the step is then the caller's (log 11). -/
def Obligations.AnswersAreTakenExactlyWhenAsked : Prop :=
  ∀ (s : State) (rest : List Input) (id : Nat) (a : Answer), s.inputs = .answer id a :: rest →
    (s.callerReady = false →
      ((∃ t, step s = .next t ∧ t.inputs = rest) ↔
        (∃ f, (s.driver id).inflight = some f ∧ f.expects a = true) ∧
        ∀ h, a = .opened h → s.handleTaken id h = false) ∧
      (¬ ((∃ f, (s.driver id).inflight = some f ∧ f.expects a = true) ∧
        ∀ h, a = .opened h → s.handleTaken id h = false) → ∀ t, step s ≠ .next t)) ∧
    (s.callerReady = true → (s.driver id).inflight = none ∧ step s = callerStep s ∧
      ∀ t, step s = .next t → t.inputs = s.inputs)

/-- In a state that keeps the invariant the machine faults only on an answer outside the transport's contract (the stop is
the model's own choice: logs 9 and 13): one for a driver that waits on nothing, when the caller cannot make a request
either, one of another request's kind, or a TOpen's with a handle that another driver owns. In particular no step reads a handle without a value (70_reset_and_hazards.md §1) or meets
bytes that are no frame. -/
def Obligations.OnlyBadAnswersFault : Prop :=
  ∀ (s : State) (f : Fault), s.Inv → step s = .fault f →
    ∃ id a rest, s.inputs = .answer id a :: rest ∧ s.callerReady = false ∧
      ((f = .unsolicitedAnswer ∧ (s.driver id).inflight = none) ∨
       (f = .answerMismatch ∧ ∃ g, (s.driver id).inflight = some g ∧ g.expects a = false) ∨
       (f = .sharedHandle ∧ ∃ cfg h j, (s.driver id).inflight = some (.tOpen cfg) ∧ a = .opened h ∧
         j ≠ id ∧ (s.driver j).held? = some h))

/-- The caller's turn, when no call has arrived and nothing is in flight, whatever answers are still to come: REPEAT 0 is
skipped, REPEAT n + 1 runs its body once more, FOREVER its body without end, an operation is issued (30_encoding.md §7).
The loops' syntax is the spec's own choice (D15); that each turn of a loop is one step of the machine is the model's own
choice (log 11). -/
def Obligations.CallerLoopsUnroll : Prop :=
  ∀ (s : State), (s.inputs = [] ∨ ∃ id a rest, s.inputs = .answer id a :: rest) → s.busy = false →
    ∀ (n : Nat) (body rest : Program),
    (s.program = .rep 0 body rest → step s = .next { s with program := rest }) ∧
    (s.program = .rep (n + 1) body rest →
      step s = .next { s with program := body.append (.rep n body rest) }) ∧
    (s.program = .forever body rest →
      step s = .next { s with program := body.append (.forever body rest) }) ∧
    (∀ o, s.program = .op o rest → step s = call o { s with program := rest })

/-- The polling program never ends: from a state in which the caller is to run FOREVER { READ 1 } on a driver, or is in
the middle of an iteration, every run of any length that goes on is still in it (42_transaction.md §5). -/
def Obligations.PollingNeverEnds : Prop :=
  ∀ (s t : State) (id n : Nat),
    (s.program = .forever (.op (.read id 1) .done) .done ∨
      s.program = .op (.read id 1) (.forever (.op (.read id 1) .done) .done)) →
    core.run n s = .next t →
    (t.program = .forever (.op (.read id 1) .done) .done ∨
      t.program = .op (.read id 1) (.forever (.op (.read id 1) .done) .done))

/-- The polling program OPEN with every field omitted; FOREVER { READ 1 } (42_transaction.md §5) under a transport that
opens, configures and answers: for any number of replies, of any bytes, the program opens the driver and then, iteration
after iteration, sends the frame 06 00 00 and hands back the sample of the reply, in order, and is polling still, with the
driver open and nothing in flight. That the transport accepts the default
configuration is a premise on its free parameter (log 6). The counts of steps are the model's own (logs 10 and 11). -/
def Obligations.PollingHandsBackEveryReply : Prop :=
  ∀ (s : State) (id : Nat) (h : Handle) (replies : List (Byte × Byte × Byte)) (more : List Input),
    s.driver id = Driver.fresh → s.busy = false → s.pathTaken id (0, 0) = false → s.handleTaken id h = false →
    Config.transportAccepts { bus := 0, device := 0, mode := 0, bitsPerWord := 8, maxClockHz := 500000 } = true →
    s.program = .op (.openDriver id {}) (.forever (.op (.read id 1) .done) .done) →
    s.inputs = .answer id (.opened h) :: .answer id .verdict ::
      (replies.map (fun r => Input.answer id (.reply [r.1, r.2.1, r.2.2])) ++ more) →
    ∃ t, core.run (3 + 3 * replies.length) s = .next t ∧
      t.outputs = s.outputs ++
        [.request id (.tOpen 0 0), .request id (.tConfigure h 0 8 500000), .result (some id) .created] ++
        replies.flatMap (fun r =>
          [.request id (.transfer h 0x06 0x00 0x00), .result (some id) (.sample (decodeSample r.1 r.2.1 r.2.2))]) ∧
      t.driver id = { life := .opened, handle := some h,
                      cfg := some { bus := 0, device := 0, mode := 0, bitsPerWord := 8, maxClockHz := 500000 },
                      inflight := none } ∧
      (∀ j, j ≠ id → t.driver j = s.driver j) ∧
      t.inputs = more ∧ t.transport = s.transport ∧
      t.program = .forever (.op (.read id 1) .done) .done

/-- REPEAT n { READ c } of a legal channel on an open driver, under a transport that answers every exchange: the body runs
exactly n times, each READ completes before the next is issued and hands back its reply's sample, and the program goes on
behind the loop (30_encoding.md §7, 20_memory.md §4). The counts of steps are the model's own (logs 10 and 11). -/
def Obligations.RepeatRunsItsBodyToCompletion : Prop :=
  ∀ (s : State) (id : Nat) (h : Handle) (replies : List (Byte × Byte × Byte)) (rest : Program), ∀ r ∈ frameMap,
    (s.driver id).life = .opened → (s.driver id).handle = some h → s.busy = false →
    s.program = .rep replies.length (.op (.read id r.2.1) .done) rest →
    s.inputs = replies.map (fun x => Input.answer id (.reply [x.1, x.2.1, x.2.2])) →
    ∃ t, core.run (3 * replies.length + 1) s = .next t ∧
      t.outputs = s.outputs ++ replies.flatMap (fun x =>
        [.request id (.transfer h r.2.2.1 r.2.2.2.1 r.2.2.2.2),
         .result (some id) (.sample (decodeSample x.1 x.2.1 x.2.2))]) ∧
      (∀ j, t.driver j = s.driver j) ∧ t.inputs = [] ∧ t.transport = s.transport ∧ t.program = rest

/-- The transport's free draws (00_scope.md §4; log 14) never stop the machine, whatever they are. A draw that names a
waiting driver makes an answer of the kind its request may get, and unless that answer brings a handle another driver owns
(10_state.md §2, log 13) it does what the answer would have done if given; any other draw means that no answer has come yet, and
nothing changes. With no input left and an operation waiting, a step is the next draw. -/
def Obligations.DrawnAnswersKeepTheContract : Prop :=
  (∀ (d : Config.Draw) (s : State),
    (∃ t, takeDraw d s = .next t ∧ t.inputs = s.inputs ∧ t.transport = s.transport ∧ t.program = s.program) ∧
    (∀ f, (s.driver d.driver).inflight = some f → f.expects (drawnAnswer d f) = true ∧
      ((∀ h, drawnAnswer d f = .opened h → s.handleTaken d.driver h = false) →
        takeDraw d s = step { s with inputs := .answer d.driver (drawnAnswer d f) :: s.inputs })) ∧
    ((s.driver d.driver).inflight = none ∨
      (∃ f h, (s.driver d.driver).inflight = some f ∧ drawnAnswer d f = .opened h ∧ s.handleTaken d.driver h = true) →
      takeDraw d s = .next s)) ∧
  (∀ (s : State) (n : Nat), s.inputs = [] → s.busy = true → s.transport = .drawn n →
    step s = takeDraw (Config.draw n) { s with transport := .drawn (n + 1) })

/-- `h` has a value exactly while the driver is Open, a driver comes to own a handle only as the one TOpen's answer, given
or drawn, brings it, no two drivers own one handle, and CLOSE releases it, by the TClose whose answer closes the driver
(10_state.md §2, 42_transaction.md §1 and §4). That a driver owns its handle (`held?`, `handleTaken`) already from TOpen's
answer on, in construction, and until TClose has returned, is the model's own choice (log 13): the spec defines `h` only
while Open. Given and drawn answers are logs 2 and 14. -/
def Obligations.HandlesAreOwnedExclusively : Prop :=
  ∀ (s t : State), s.Inv → step s = .next t →
    (∀ id, (t.driver id).handle.isSome ↔ (t.driver id).life = .opened) ∧
    (∀ i j h, (t.driver i).held? = some h → (t.driver j).held? = some h → i = j) ∧
    (∀ id h, (t.driver id).held? = some h → (s.driver id).held? = some h ∨
      (∃ cfg, (s.driver id).inflight = some (.tOpen cfg) ∧ (t.driver id).inflight = some (.tConfigure cfg h)) ∧
        s.handleTaken id h = false ∧
        ((∃ rest, s.inputs = .answer id (.opened h) :: rest) ∨
          (s.inputs = [] ∧ ∃ n, s.transport = .drawn n ∧ (Config.draw n).driver = id ∧
            (Config.draw n).success = true ∧ (Config.draw n).handle = h))) ∧
    (∀ id, (s.driver id).life = .opened → (t.driver id).life = .closed →
      (∃ h, (s.driver id).handle = some h) ∧ (s.driver id).inflight = some .tClose ∧
      (t.driver id).handle = none ∧ (t.driver id).held? = none)

/-- R30: at most one exchange is in flight per handle, and a driver that waits for its exchange accepts no other
operation. -/
def Obligations.AtMostOneExchangePerHandle : Prop :=
  ∀ (s t : State), s.Inv → step s = .next t →
    (∀ i j h, (t.driver i).inflight = some .transfer → (t.driver i).handle = some h →
      (t.driver j).inflight = some .transfer → (t.driver j).handle = some h → i = j) ∧
    (∀ id op, (s.driver id).inflight = some .transfer → s.nextOp? = some op → op.target? ≠ some id)
end

