-- ==== Sys2Proof/Laws/State.lean ====
section
/-! SUPPORT. One lemma per field per update of the state, true by rfl, so that no later proof unfolds a record update. -/

namespace Sys2Proof.Machine

section updates
variable (s : State) (id : Nat) (d : Driver) (f : Option Inflight) (o : Output) (op : Op) (out : List Output)

@[simp] theorem setDriver_drivers : (s.setDriver id d).drivers = writeDriver s.drivers id d := rfl
@[simp] theorem setDriver_serving : (s.setDriver id d).serving = s.serving := rfl
@[simp] theorem setDriver_inputs : (s.setDriver id d).inputs = s.inputs := rfl
@[simp] theorem setDriver_transport : (s.setDriver id d).transport = s.transport := rfl
@[simp] theorem setDriver_program : (s.setDriver id d).program = s.program := rfl
@[simp] theorem setDriver_outputs : (s.setDriver id d).outputs = s.outputs := rfl

@[simp] theorem setInflight_serving : (s.setInflight id f).serving = s.serving := rfl
@[simp] theorem setInflight_inputs : (s.setInflight id f).inputs = s.inputs := rfl
@[simp] theorem setInflight_transport : (s.setInflight id f).transport = s.transport := rfl
@[simp] theorem setInflight_program : (s.setInflight id f).program = s.program := rfl
@[simp] theorem setInflight_outputs : (s.setInflight id f).outputs = s.outputs := rfl

@[simp] theorem emit_drivers : (s.emit o).drivers = s.drivers := rfl
@[simp] theorem emit_driver (j : Nat) : (s.emit o).driver j = s.driver j := rfl
@[simp] theorem emit_serving : (s.emit o).serving = s.serving := rfl
@[simp] theorem emit_inputs : (s.emit o).inputs = s.inputs := rfl
@[simp] theorem emit_transport : (s.emit o).transport = s.transport := rfl
@[simp] theorem emit_program : (s.emit o).program = s.program := rfl
@[simp] theorem emit_outputs : (s.emit o).outputs = s.outputs ++ [o] := rfl

@[simp] theorem callFirst_drivers : (s.callFirst op).drivers = s.drivers := rfl
@[simp] theorem callFirst_serving : (s.callFirst op).serving = s.serving := rfl
@[simp] theorem callFirst_inputs : (s.callFirst op).inputs = .call op :: s.inputs := rfl
@[simp] theorem callFirst_transport : (s.callFirst op).transport = s.transport := rfl
@[simp] theorem callFirst_program : (s.callFirst op).program = s.program := rfl
@[simp] theorem callFirst_outputs : (s.callFirst op).outputs = s.outputs := rfl

@[simp] theorem withOutputs_drivers : (s.withOutputs out).drivers = s.drivers := rfl
@[simp] theorem withOutputs_driver (j : Nat) : (s.withOutputs out).driver j = s.driver j := rfl
@[simp] theorem withOutputs_serving : (s.withOutputs out).serving = s.serving := rfl
@[simp] theorem withOutputs_inputs : (s.withOutputs out).inputs = s.inputs := rfl
@[simp] theorem withOutputs_transport : (s.withOutputs out).transport = s.transport := rfl
@[simp] theorem withOutputs_program : (s.withOutputs out).program = s.program := rfl
@[simp] theorem withOutputs_outputs : (s.withOutputs out).outputs = out := rfl

end updates

section results
variable (s : State) (id : Nat) (who : Option Nat) (r : Result) (q : Request) (f : Inflight)

@[simp] theorem deliver_drivers : (deliver who r s).drivers = s.drivers := rfl
@[simp] theorem deliver_driver (j : Nat) : (deliver who r s).driver j = s.driver j := rfl
@[simp] theorem deliver_serving : (deliver who r s).serving = none := rfl
@[simp] theorem deliver_inputs : (deliver who r s).inputs = s.inputs := rfl
@[simp] theorem deliver_transport : (deliver who r s).transport = s.transport := rfl
@[simp] theorem deliver_program : (deliver who r s).program = s.program := rfl
@[simp] theorem deliver_outputs : (deliver who r s).outputs = s.outputs ++ [.result who r] := rfl

@[simp] theorem complete_serving : (complete id r s).serving = none := rfl
@[simp] theorem complete_inputs : (complete id r s).inputs = s.inputs := rfl
@[simp] theorem complete_transport : (complete id r s).transport = s.transport := rfl
@[simp] theorem complete_program : (complete id r s).program = s.program := rfl
@[simp] theorem complete_outputs : (complete id r s).outputs = s.outputs ++ [.result (some id) r] := rfl

@[simp] theorem ask_serving : (ask id q f s).serving = s.serving := rfl
@[simp] theorem ask_inputs : (ask id q f s).inputs = s.inputs := rfl
@[simp] theorem ask_transport : (ask id q f s).transport = s.transport := rfl
@[simp] theorem ask_program : (ask id q f s).program = s.program := rfl
@[simp] theorem ask_outputs : (ask id q f s).outputs = s.outputs ++ [.request id q] := rfl

end results

/-- What a driver waits on is no part of its wrapper state. -/
@[simp] theorem wrapper_with_inflight (d : Driver) (f : Option Inflight) :
    Driver.wrapper { d with inflight := f } = d.wrapper := rfl

/-- `driver` reads nothing but the table. -/
theorem driver_mk (t : List (Nat × Driver)) (v : Option Nat) (i : List Input) (r : Transport) (p : Program)
    (o : List Output) (j : Nat) :
    State.driver { drivers := t, serving := v, inputs := i, transport := r, program := p, outputs := o } j = lookupDriver t j := rfl

end Sys2Proof.Machine
end

