-- ==== Sys2Proof/Laws/Table.lean ====
section
/-! SUPPORT. The laws of the table of drivers: reading after writing, and that every write keeps the table's one form. -/

namespace Sys2Proof.Machine

theorem lookup_erase_same (t : List (Nat × Driver)) (k : Nat) : lookupDriver (eraseDriver t k) k = Driver.fresh := by
  induction t with
  | nil => rfl
  | cons e t ih =>
    obtain ⟨j, d⟩ := e
    by_cases h : j = k
    · subst h; simpa [eraseDriver] using ih
    · have hk : ¬ k = j := fun h' => h h'.symm
      simpa [eraseDriver, h, lookupDriver, hk] using ih

theorem lookup_erase_other (t : List (Nat × Driver)) {k j : Nat} (h : j ≠ k) :
    lookupDriver (eraseDriver t k) j = lookupDriver t j := by
  induction t with
  | nil => rfl
  | cons e t ih =>
    obtain ⟨i, d⟩ := e
    by_cases hik : i = k
    · subst hik; simpa [eraseDriver, lookupDriver, h] using ih
    · by_cases hji : j = i
      · subst hji; simp [eraseDriver, hik, lookupDriver]
      · simpa [eraseDriver, hik, lookupDriver, hji] using ih

theorem mem_erase {t : List (Nat × Driver)} {k : Nat} {e : Nat × Driver} :
    e ∈ eraseDriver t k ↔ e ∈ t ∧ e.1 ≠ k := by
  simp [eraseDriver]

theorem lookup_insert_other (t : List (Nat × Driver)) {k j : Nat} (d : Driver) (h : j ≠ k) :
    lookupDriver (insertDriver t k d) j = lookupDriver t j := by
  induction t with
  | nil => simp [insertDriver, lookupDriver, h]
  | cons e t ih =>
    obtain ⟨i, c⟩ := e
    by_cases hik : k < i
    · simp [insertDriver, hik, lookupDriver, h]
    · by_cases hji : j = i
      · simp [insertDriver, hik, lookupDriver, hji]
      · simpa [insertDriver, hik, lookupDriver, hji] using ih

theorem lookup_insert_same (t : List (Nat × Driver)) (k : Nat) (d : Driver) (h : ∀ e ∈ t, e.1 ≠ k) :
    lookupDriver (insertDriver t k d) k = d := by
  induction t with
  | nil => simp [insertDriver, lookupDriver]
  | cons e t ih =>
    obtain ⟨i, c⟩ := e
    have hi : ¬ k = i := fun hki => h (i, c) (by simp) hki.symm
    by_cases hik : k < i
    · simp [insertDriver, hik, lookupDriver]
    · simpa [insertDriver, hik, lookupDriver, hi] using ih (fun e he => h e (by simp [he]))

/-- Reading a driver after writing it gives what was written. -/
@[simp] theorem lookup_write_same (t : List (Nat × Driver)) (k : Nat) (d : Driver) :
    lookupDriver (writeDriver t k d) k = d := by
  unfold writeDriver
  split
  · rename_i h; rw [h]; exact lookup_erase_same t k
  · exact lookup_insert_same _ _ _ (fun e he => (mem_erase.1 he).2)

/-- Writing a driver leaves every other driver alone. -/
theorem lookup_write_other (t : List (Nat × Driver)) {k j : Nat} (d : Driver) (h : j ≠ k) :
    lookupDriver (writeDriver t k d) j = lookupDriver t j := by
  unfold writeDriver
  split
  · exact lookup_erase_other t h
  · rw [lookup_insert_other _ _ h, lookup_erase_other t h]

theorem erase_keeps_wf {t : List (Nat × Driver)} (k : Nat) (h : tableWF t) : tableWF (eraseDriver t k) :=
  ⟨h.1.filter _, fun e he => h.2 e (mem_erase.1 he).1⟩

theorem mem_insert {t : List (Nat × Driver)} {k : Nat} {d : Driver} {e : Nat × Driver} :
    e ∈ insertDriver t k d ↔ e = (k, d) ∨ e ∈ t := by
  induction t with
  | nil => simp [insertDriver]
  | cons a t ih =>
    obtain ⟨i, c⟩ := a
    by_cases hik : k < i
    · simp [insertDriver, hik]
    · simp only [insertDriver, hik, if_false, List.mem_cons, ih]
      exact or_left_comm

theorem insert_keeps_wf {t : List (Nat × Driver)} {k : Nat} {d : Driver} (h : tableWF t) (hk : ∀ e ∈ t, e.1 ≠ k)
    (hd : d ≠ Driver.fresh) : tableWF (insertDriver t k d) := by
  refine ⟨?_, fun e he => ?_⟩
  · have hp := h.1
    clear h
    induction t with
    | nil => simp [insertDriver]
    | cons a t ih =>
      obtain ⟨i, c⟩ := a
      have hi : i ≠ k := hk (i, c) (by simp)
      rw [List.pairwise_cons] at hp
      by_cases hik : k < i
      · simp only [insertDriver, hik, if_true, List.pairwise_cons, List.mem_cons]
        refine ⟨?_, hp.1, hp.2⟩
        rintro e (rfl | he)
        · exact hik
        · exact lt_trans hik (hp.1 e he)
      · simp only [insertDriver, hik, if_false, List.pairwise_cons]
        refine ⟨fun e he => ?_, ih (fun e he => hk e (by simp [he])) hp.2⟩
        rcases mem_insert.1 he with rfl | he
        · dsimp only; omega
        · exact hp.1 e he
  · rcases mem_insert.1 he with rfl | he
    · exact hd
    · exact h.2 e he

/-- Every write keeps the table's one form. -/
theorem write_keeps_wf {t : List (Nat × Driver)} (k : Nat) (d : Driver) (h : tableWF t) : tableWF (writeDriver t k d) := by
  unfold writeDriver
  split
  · exact erase_keeps_wf k h
  · rename_i hd
    exact insert_keeps_wf (erase_keeps_wf k h) (fun e he => (mem_erase.1 he).2) hd

/-- A driver that is not fresh is listed. -/
theorem mem_of_lookup {t : List (Nat × Driver)} {k : Nat} (h : lookupDriver t k ≠ Driver.fresh) :
    (k, lookupDriver t k) ∈ t := by
  induction t with
  | nil => exact absurd rfl h
  | cons e t ih =>
    obtain ⟨j, d⟩ := e
    by_cases hk : k = j
    · simp [lookupDriver, hk]
    · simp only [lookupDriver, hk, if_false] at h ⊢
      exact List.mem_cons_of_mem _ (ih h)

/-- What a write leaves in the table: the driver written, and the entries of other names. -/
theorem mem_write {t : List (Nat × Driver)} {k : Nat} {d : Driver} {e : Nat × Driver} (h : e ∈ writeDriver t k d) :
    e = (k, d) ∨ (e ∈ t ∧ e.1 ≠ k) := by
  unfold writeDriver at h
  split at h
  · exact .inr (mem_erase.1 h)
  · exact (mem_insert.1 h).imp_right mem_erase.1

/-- A write keeps the entries of other names. -/
theorem mem_write_of_ne {t : List (Nat × Driver)} {k : Nat} (d : Driver) {e : Nat × Driver} (h : e ∈ t) (hk : e.1 ≠ k) :
    e ∈ writeDriver t k d := by
  unfold writeDriver
  split
  · exact mem_erase.2 ⟨h, hk⟩
  · exact mem_insert.2 (.inr (mem_erase.2 ⟨h, hk⟩))

/-- In a well-formed table an entry is what a lookup of its name finds. -/
theorem lookup_of_mem {t : List (Nat × Driver)} (hwf : tableWF t) {e : Nat × Driver} (he : e ∈ t) :
    lookupDriver t e.1 = e.2 := by
  have hp := hwf.1
  clear hwf
  induction t with
  | nil => cases he
  | cons a t ih =>
    obtain ⟨j, d⟩ := a
    rw [List.pairwise_cons] at hp
    rcases List.mem_cons.1 he with rfl | he
    · simp [lookupDriver]
    · have : ¬ e.1 = j := by have := hp.1 e he; dsimp only at this; omega
      simpa [lookupDriver, this] using ih he hp.2

section state
variable (s : State) (id : Nat) (d : Driver) (f : Option Inflight)

@[simp] theorem driver_setDriver_same : (s.setDriver id d).driver id = d := lookup_write_same _ _ _

theorem driver_setDriver_other {j : Nat} (h : j ≠ id) : (s.setDriver id d).driver j = s.driver j :=
  lookup_write_other _ _ h

@[simp] theorem driver_setInflight_same :
    (s.setInflight id f).driver id = { s.driver id with inflight := f } := lookup_write_same _ _ _

theorem driver_setInflight_other {j : Nat} (h : j ≠ id) : (s.setInflight id f).driver j = s.driver j :=
  lookup_write_other _ _ h

@[simp] theorem driver_ask_same (q : Request) (g : Inflight) :
    (ask id q g s).driver id = { s.driver id with inflight := some g } := lookup_write_same _ _ _

theorem driver_ask_other (q : Request) (g : Inflight) {j : Nat} (h : j ≠ id) :
    (ask id q g s).driver j = s.driver j := lookup_write_other _ _ h

@[simp] theorem driver_complete_same (r : Result) :
    (complete id r s).driver id = { s.driver id with inflight := none } := lookup_write_same _ _ _

theorem driver_complete_other (r : Result) {j : Nat} (h : j ≠ id) : (complete id r s).driver j = s.driver j :=
  lookup_write_other _ _ h

end state

/-- No driver but `id` waits on the transport: what holds while an operation of `id` is the only one in progress. -/
def State.OnlyWaits (s : State) (id : Nat) : Prop := ∀ e ∈ s.drivers, e.1 ≠ id → e.2.inflight = none

theorem onlyWaits_of_idle {s : State} (h : s.busy = false) (id : Nat) : s.OnlyWaits id := fun e he _ => by
  have := List.any_eq_false.1 h e he
  simpa using this

/-- Writing a driver keeps every other idle. -/
theorem onlyWaits_write {s t : State} {id : Nat} {d : Driver} (ht : t.drivers = writeDriver s.drivers id d)
    (h : s.OnlyWaits id) : t.OnlyWaits id := fun e he hne => by
  rw [ht] at he
  rcases mem_write he with rfl | ⟨hm, _⟩
  · exact absurd rfl hne
  · exact h e hm hne

/-- When the one driver that waited waits no longer, nothing is in flight (R48). -/
theorem idle_write {s t : State} {id : Nat} {d : Driver} (ht : t.drivers = writeDriver s.drivers id d)
    (hd : d.inflight = none) (h : s.OnlyWaits id) : t.busy = false := by
  refine List.any_eq_false.2 (fun e he => ?_)
  rw [ht] at he
  rcases mem_write he with rfl | ⟨hm, hne⟩
  · simp [hd]
  · simp [h e hm hne]

/-- Which handles the other drivers own does not depend on the driver written (R25). -/
theorem handleTaken_write {s t : State} {id : Nat} {d : Driver} (ht : t.drivers = writeDriver s.drivers id d) (h : Handle) :
    t.handleTaken id h = s.handleTaken id h := by
  rw [Bool.eq_iff_iff, State.handleTaken, State.handleTaken, ht, List.any_eq_true, List.any_eq_true]
  constructor
  · rintro ⟨e, he, hp⟩
    rcases mem_write he with rfl | ⟨hm, _⟩
    · simp at hp
    · exact ⟨e, hm, hp⟩
  · rintro ⟨e, he, hp⟩
    exact ⟨e, mem_write_of_ne d he (by simp at hp; exact hp.1), hp⟩

@[simp] theorem handleTaken_ask (s : State) (id : Nat) (q : Request) (f : Inflight) (h : Handle) :
    (ask id q f s).handleTaken id h = s.handleTaken id h := handleTaken_write (s := s) rfl h

/-- Setting what a driver waits on leaves the wrapper state of every driver. -/
@[simp] theorem wrapper_setInflight (s : State) (id : Nat) (f : Option Inflight) (j : Nat) :
    ((s.setInflight id f).driver j).wrapper = (s.driver j).wrapper := by
  by_cases h : j = id
  · subst h; simp [Driver.wrapper]
  · rw [driver_setInflight_other s id f h]

/-- A request to the transport leaves the wrapper state of every driver. -/
@[simp] theorem wrapper_ask (s : State) (id : Nat) (q : Request) (f : Inflight) (j : Nat) :
    ((ask id q f s).driver j).wrapper = (s.driver j).wrapper :=
  wrapper_setInflight s id (some f) j

/-- Completing an operation leaves the wrapper state of every driver. -/
@[simp] theorem wrapper_complete (s : State) (id : Nat) (r : Result) (j : Nat) :
    ((complete id r s).driver j).wrapper = (s.driver j).wrapper :=
  wrapper_setInflight s id none j

end Sys2Proof.Machine
end

