-- ==== Sys2Proof/Laws/Codec.lean ====
section
/-! SUPPORT. The laws of the codec: a legal channel is one of eight, the frame ENC makes for it is a command the decoder
knows, and what exec does with a frame and with a reply. -/

namespace Sys2Proof.Machine

/-- The command row of a legal channel (opcode_table.json, "channel"). -/
def commandOf (channel : Int) : Instr :=
  if channel = 1 then .cmdSeCh1 else if channel = 2 then .cmdSeCh2 else if channel = 3 then .cmdSeCh3
  else if channel = 4 then .cmdSeCh4 else if channel = 5 then .cmdSeCh5 else if channel = 6 then .cmdSeCh6
  else if channel = 7 then .cmdSeCh7 else .cmdSeCh8

theorem legal_cases {c : Int} (h : LegalChannel c) :
    c = 1 ∨ c = 2 ∨ c = 3 ∨ c = 4 ∨ c = 5 ∨ c = 6 ∨ c = 7 ∨ c = 8 := by
  obtain ⟨h1, h2⟩ := h
  simp only [Config.chMin, Config.chMax] at h1 h2
  omega

theorem encodeChannel_legal {c : Int} (h : LegalChannel c) : encodeChannel c = some (commandFrame (selector c)) :=
  if_pos h

theorem encodeChannel_illegal {c : Int} (h : ¬ LegalChannel c) : encodeChannel c = none := if_neg h

/-- What ENC drives for a legal channel is the frame of the table's row (R66). -/
theorem decode_commandFrame {c : Int} (h : LegalChannel c) :
    decode .command [(commandFrame (selector c)).b0, (commandFrame (selector c)).b1, (commandFrame (selector c)).b2]
      = .instr (commandOf c) := by
  rcases legal_cases h with rfl | rfl | rfl | rfl | rfl | rfl | rfl | rfl <;> decide

/-- Every frame ENC makes passes the legality check of R67. -/
theorem commandFrame_isCommand (x : Selector) :
    FrameWord.isCommand (frameWord (commandFrame x).b0 (commandFrame x).b1 (commandFrame x).b2) = true := by
  revert x; decide

/-- A command row's meaning is ENC's frame for its channel (R87). -/
theorem exec_commandOf {c : Int} (h : LegalChannel c) (s : State) :
    exec (commandOf c) s = deliverFrame (commandFrame (selector c)) s := by
  rcases legal_cases h with rfl | rfl | rfl | rfl | rfl | rfl | rfl | rfl <;> rfl

theorem exec_reply (r0 r1 r2 : Byte) (s : State) :
    exec (.reply r0 r1 r2) s = deliverSample (decodeSample r0 r1 r2) s := rfl

/-- Everything `deliverFrame` can do when it goes on. -/
theorem deliverFrame_next {f : CommandFrame} {s t : State} (h : deliverFrame f s = .next t) :
    (s.serving = none ∧ t = deliver none (.frame f.b0 f.b1 f.b2) s) ∨
    (∃ id hd, s.serving = some id ∧ (s.driver id).handle = some hd ∧
      t = ask id (.transfer hd f.b0 f.b1 f.b2) .transfer { s with serving := none }) := by
  unfold deliverFrame at h
  split at h
  · cases h; exact .inl ⟨‹_›, rfl⟩
  · split at h
    · cases h; exact .inr ⟨_, _, ‹_›, ‹_›, rfl⟩
    · cases h

/-- Everything `deliverSample` can do: it always goes on (R103). -/
theorem deliverSample_eq (v : Sample) (s : State) :
    (s.serving = none ∧ deliverSample v s = .next (deliver none (.sample v) s)) ∨
    (∃ id, s.serving = some id ∧ deliverSample v s = .next (complete id (.sample v) s)) := by
  unfold deliverSample
  cases h : s.serving with
  | none => exact .inl ⟨rfl, rfl⟩
  | some id => exact .inr ⟨id, rfl, rfl⟩

/-- Running the frame of a legal channel is `deliverFrame`. -/
theorem encodeFor_legal {c : Int} (h : LegalChannel c) (who : Option Nat) (s : State) :
    encodeFor who c s = deliverFrame (commandFrame (selector c)) { s with serving := who } := by
  simp only [encodeFor, encodeChannel_legal h, runFrame, decode_commandFrame h, exec_commandOf h]

theorem encodeFor_illegal {c : Int} (h : ¬ LegalChannel c) (who : Option Nat) (s : State) :
    encodeFor who c s = raise who (.invalidChannel c) s := by
  simp only [encodeFor, encodeChannel_illegal h]

/-- The decoder of replies takes exactly the three-byte lists (R69, R70). -/
theorem decode_reply_cases (bytes : List Byte) :
    (∃ r0 r1 r2, bytes = [r0, r1, r2] ∧ decode .reply bytes = .instr (.reply r0 r1 r2)) ∨
    (bytes.length ≠ 3 ∧ decode .reply bytes = .rejected (.notThreeBytes bytes.length)) := by
  match bytes with
  | [] => exact .inr ⟨by simp, rfl⟩
  | [_] => exact .inr ⟨by simp, rfl⟩
  | [_, _] => exact .inr ⟨by simp, rfl⟩
  | [a, b, c] => exact .inl ⟨a, b, c, rfl, rfl⟩
  | _ :: _ :: _ :: _ :: t => exact .inr ⟨by simp, rfl⟩

end Sys2Proof.Machine
end

