-- ==== Sys2Proof/Laws/Step.lean ====
section
/-! SUPPORT. Everything a call, an answer and a step can do when the machine goes on, said once. Later proofs about steps
take these cases apart and never unfold the operations. -/

namespace Sys2Proof.Machine

/-- What a call may do. -/
inductive CallEffect (op : Op) (s t : State) : Prop
  | encoded (c : Int) (hop : op = .encode c) (hc : LegalChannel c)
      (ht : t = deliver none (.frame (commandFrame (selector c)).b0 (commandFrame (selector c)).b1
        (commandFrame (selector c)).b2) s)
  | badEncode (c : Int) (hop : op = .encode c) (hc : ¬ LegalChannel c)
      (ht : t = deliver none (.error (.invalidChannel c)) s)
  | decoded (r0 r1 r2 : Byte) (hop : op = .decode r0 r1 r2)
      (ht : t = deliver none (.sample (decodeSample r0 r1 r2)) s)
  | opening (id : Nat) (args : ConfigArgs) (hop : op = .openDriver id args) (hl : (s.driver id).life = .absent)
      (hi : (s.driver id).inflight = none)
      (hp : s.pathTaken id ((fillDefaults args).bus, (fillDefaults args).device) = false)
      (ht : t = ask id (.tOpen (fillDefaults args).bus (fillDefaults args).device) (.tOpen (fillDefaults args)) s)
  | readClosed (id : Nat) (c : Int) (hop : op = .read id c) (hl : (s.driver id).life = .closed)
      (ht : t = deliver (some id) (.error .notOpen) s)
  | badRead (id : Nat) (c : Int) (hop : op = .read id c) (hl : (s.driver id).life = .opened)
      (hi : (s.driver id).inflight = none) (hc : ¬ LegalChannel c)
      (ht : t = deliver (some id) (.error (.invalidChannel c)) s)
  | reading (id : Nat) (c : Int) (h : Handle) (hop : op = .read id c) (hl : (s.driver id).life = .opened)
      (hi : (s.driver id).inflight = none) (hc : LegalChannel c) (hh : (s.driver id).handle = some h)
      (ht : t = ask id (.transfer h (commandFrame (selector c)).b0 (commandFrame (selector c)).b1
        (commandFrame (selector c)).b2) .transfer { s with serving := none })
  | closeClosed (id : Nat) (hop : op = .close id) (hl : (s.driver id).life = .closed)
      (ht : t = deliver (some id) (.error .notOpen) s)
  | closing (id : Nat) (h : Handle) (hop : op = .close id) (hl : (s.driver id).life = .opened)
      (hi : (s.driver id).inflight = none) (hh : (s.driver id).handle = some h)
      (ht : t = ask id (.tClose h) .tClose s)

theorem call_next {op : Op} {s t : State} (h : call op s = .next t) : CallEffect op s t := by
  cases op with
  | encode c =>
    by_cases hc : LegalChannel c
    · simp only [call, encodeFor_legal hc] at h
      cases h
      exact .encoded c rfl hc rfl
    · simp only [call, encodeFor_illegal hc, raise] at h
      cases h
      exact .badEncode c rfl hc rfl
  | decode r0 r1 r2 => cases h; exact .decoded r0 r1 r2 rfl rfl
  | openDriver id args =>
    simp only [call, callOpen] at h
    split at h
    · cases h
    · cases h
    · rename_i hl
      split at h
      · cases h
      · rename_i hi
        split at h
        · cases h
        · rename_i hp
          cases h
          exact .opening id args rfl hl hi hp rfl
  | read id c =>
    simp only [call, callRead] at h
    split at h
    · rename_i hl; cases h; exact .readClosed id c rfl hl rfl
    · split at h <;> cases h
    · rename_i hl
      split at h
      · cases h
      · rename_i hi
        by_cases hc : LegalChannel c
        · rw [encodeFor_legal hc] at h
          rcases deliverFrame_next h with ⟨hn, _⟩ | ⟨j, hd, hj, hh, rfl⟩
          · cases hn
          · cases hj
            exact .reading id c hd rfl hl hi hc hh rfl
        · rw [encodeFor_illegal hc] at h
          cases h
          exact .badRead id c rfl hl hi hc rfl
  | close id =>
    simp only [call, callClose] at h
    split at h
    · rename_i hl; cases h; exact .closeClosed id rfl hl rfl
    · split at h <;> cases h
    · rename_i hl
      split at h
      · cases h
      · rename_i hi
        split at h
        · rename_i hh; cases h; exact .closing id _ rfl hl hi hh rfl
        · cases h

/-- What an answer of the transport may do. -/
inductive AnswerEffect (id : Nat) (a : Answer) (s t : State) : Prop
  | opened (cfg : BusConfig) (h : Handle) (hf : (s.driver id).inflight = some (.tOpen cfg)) (ha : a = .opened h)
      (hh : s.handleTaken id h = false)
      (ht : t = ask id (.tConfigure h cfg.mode cfg.bitsPerWord cfg.maxClockHz) (.tConfigure cfg h) s)
  | openFailed (cfg : BusConfig) (hf : (s.driver id).inflight = some (.tOpen cfg)) (ha : a = .openFailed)
      (ht : t = complete id (.error (.transportUnavailable cfg.bus cfg.device)) s)
  | configured (cfg : BusConfig) (h : Handle) (hf : (s.driver id).inflight = some (.tConfigure cfg h))
      (ha : a = .verdict) (hv : Config.transportAccepts cfg = true)
      (ht : t = deliver (some id) .created
        (s.setDriver id { life := .opened, handle := some h, cfg := some cfg, inflight := none }))
  | configRejected (cfg : BusConfig) (h : Handle) (hf : (s.driver id).inflight = some (.tConfigure cfg h))
      (ha : a = .verdict) (hv : Config.transportAccepts cfg = false) (ht : t = ask id (.tClose h) (.tRelease cfg h) s)
  | released (cfg : BusConfig) (h : Handle) (hf : (s.driver id).inflight = some (.tRelease cfg h))
      (ha : a = .released) (ht : t = complete id (.error (.invalidConfig cfg)) s)
  | replied (r0 r1 r2 : Byte) (hf : (s.driver id).inflight = some .transfer) (ha : a = .reply [r0, r1, r2])
      (ht : t = complete id (.sample (decodeSample r0 r1 r2)) { s with serving := some id })
  | wrongLength (bytes : List Byte) (hf : (s.driver id).inflight = some .transfer) (ha : a = .reply bytes)
      (hn : bytes.length ≠ 3) (ht : t = complete id (.error .transferFailed) s)
  | transferFailed (hf : (s.driver id).inflight = some .transfer) (ha : a = .transferFailed)
      (ht : t = complete id (.error .transferFailed) s)
  | closed (hf : (s.driver id).inflight = some .tClose) (ha : a = .released)
      (ht : t = deliver (some id) .done
        (s.setDriver id { s.driver id with life := .closed, handle := none, inflight := none }))

theorem answer_next {id : Nat} {a : Answer} {s t : State} (h : answer id a s = .next t) : AnswerEffect id a s t := by
  unfold answer at h
  split at h
  · cases h
  · rename_i hf
    cases a with
    | opened hd =>
      simp only [answerOpen] at h
      split at h
      · cases h
      · cases h; exact .opened _ _ hf rfl ‹_› rfl
    | openFailed => cases h; exact .openFailed _ hf rfl rfl
    | verdict => cases h
    | reply _ => cases h
    | transferFailed => cases h
    | released => cases h
  · rename_i hf
    cases a with
    | verdict =>
      simp only [answerConfigure] at h
      split at h
      · cases h; exact .configured _ _ hf rfl ‹_› rfl
      · cases h; exact .configRejected _ _ hf rfl ‹_› rfl
    | opened _ => cases h
    | openFailed => cases h
    | reply _ => cases h
    | transferFailed => cases h
    | released => cases h
  · cases a <;> simp only [answerRelease] at h <;> cases h
    exact .released _ _ ‹_› rfl rfl
  · rename_i hf
    cases a with
    | reply bytes =>
      rcases decode_reply_cases bytes with ⟨r0, r1, r2, rfl, _⟩ | ⟨hn, hd⟩
      · cases h; exact .replied r0 r1 r2 hf rfl rfl
      · simp only [answerTransfer, hd] at h
        cases h
        exact .wrongLength bytes hf rfl hn rfl
    | transferFailed => cases h; exact .transferFailed hf rfl rfl
    | opened _ => cases h
    | openFailed => cases h
    | verdict => cases h
    | released => cases h
  · cases a <;> simp only [answerClose] at h <;> cases h
    exact .closed ‹_› rfl rfl

/-- Why an answer stops the machine: nobody waits for it, it is of another request's kind, or it brings a handle another
driver owns (logs 9, 13). -/
inductive AnswerStops (id : Nat) (a : Answer) (s : State) : Fault → Prop
  | unsolicited (hf : (s.driver id).inflight = none) : AnswerStops id a s .unsolicitedAnswer
  | mismatch (f : Inflight) (hf : (s.driver id).inflight = some f) (he : f.expects a = false) :
      AnswerStops id a s .answerMismatch
  | shared (cfg : BusConfig) (h : Handle) (hf : (s.driver id).inflight = some (.tOpen cfg)) (ha : a = .opened h)
      (ht : s.handleTaken id h = true) : AnswerStops id a s .sharedHandle

/-- An answer the transport may give goes on, and every other stops the machine. -/
theorem answer_cases (id : Nat) (a : Answer) (s : State) :
    (s.expects id a = true ∧ ∃ t, answer id a s = .next t) ∨
    (s.expects id a = false ∧ ∃ f, answer id a s = .fault f ∧ AnswerStops id a s f) := by
  unfold answer State.expects
  cases hf : (s.driver id).inflight with
  | none => exact .inr ⟨rfl, _, rfl, .unsolicited hf⟩
  | some f =>
    have stop {g : Inflight} (hg : (s.driver id).inflight = some g) (he : g.expects a = false) :
        (g.expects a && !s.bringsTaken id a) = false ∧ ∃ e, (.fault .answerMismatch : Host.Outcome State Fault Refusal) = .fault e ∧
          AnswerStops id a s e := ⟨by simp [he], _, rfl, .mismatch g hg he⟩
    cases f with
    | tOpen cfg =>
      cases a with
      | opened h =>
        cases ht : s.handleTaken id h with
        | true => exact .inr ⟨by simp [State.bringsTaken, ht], _, by simp [answerOpen, ht], .shared cfg h hf rfl ht⟩
        | false => exact .inl ⟨by simp [State.bringsTaken, ht, Inflight.expects], _, by simp only [answerOpen, ht]; rfl⟩
      | openFailed => exact .inl ⟨rfl, _, rfl⟩
      | verdict => exact .inr (stop hf rfl)
      | reply _ => exact .inr (stop hf rfl)
      | transferFailed => exact .inr (stop hf rfl)
      | released => exact .inr (stop hf rfl)
    | tConfigure cfg h =>
      cases a with
      | verdict =>
        cases hv : Config.transportAccepts cfg with
        | true => exact .inl ⟨rfl, _, by simp only [answerConfigure, hv]; rfl⟩
        | false => exact .inl ⟨rfl, _, by simp only [answerConfigure, hv]; rfl⟩
      | opened _ => exact .inr (stop hf rfl)
      | openFailed => exact .inr (stop hf rfl)
      | reply _ => exact .inr (stop hf rfl)
      | transferFailed => exact .inr (stop hf rfl)
      | released => exact .inr (stop hf rfl)
    | tRelease cfg h =>
      cases a with
      | released => exact .inl ⟨rfl, _, rfl⟩
      | opened _ => exact .inr (stop hf rfl)
      | openFailed => exact .inr (stop hf rfl)
      | verdict => exact .inr (stop hf rfl)
      | reply _ => exact .inr (stop hf rfl)
      | transferFailed => exact .inr (stop hf rfl)
    | transfer =>
      cases a with
      | reply bytes =>
        rcases decode_reply_cases bytes with ⟨r0, r1, r2, rfl, _⟩ | ⟨_, hd⟩
        · exact .inl ⟨rfl, _, rfl⟩
        · exact .inl ⟨rfl, complete id (.error .transferFailed) s, by simp only [answerTransfer, hd]; rfl⟩
      | transferFailed => exact .inl ⟨rfl, _, rfl⟩
      | opened _ => exact .inr (stop hf rfl)
      | openFailed => exact .inr (stop hf rfl)
      | verdict => exact .inr (stop hf rfl)
      | released => exact .inr (stop hf rfl)
    | tClose =>
      cases a with
      | released => exact .inl ⟨rfl, _, rfl⟩
      | opened _ => exact .inr (stop hf rfl)
      | openFailed => exact .inr (stop hf rfl)
      | verdict => exact .inr (stop hf rfl)
      | reply _ => exact .inr (stop hf rfl)
      | transferFailed => exact .inr (stop hf rfl)

/-- A draw either answers the driver it names with an answer it may get, or changes nothing; it never stops the
machine. -/
theorem takeDraw_cases (d : Config.Draw) (s : State) :
    (∃ f t, (s.driver d.driver).inflight = some f ∧ s.expects d.driver (drawnAnswer d f) = true ∧
      takeDraw d s = answer d.driver (drawnAnswer d f) s ∧ takeDraw d s = .next t) ∨
    ((∀ f, (s.driver d.driver).inflight = some f → s.expects d.driver (drawnAnswer d f) = false) ∧
      takeDraw d s = .next s) := by
  unfold takeDraw
  cases hf : (s.driver d.driver).inflight with
  | none => exact .inr ⟨fun _ h => (nomatch h), rfl⟩
  | some f =>
    rcases answer_cases d.driver (drawnAnswer d f) s with ⟨he, t, ht⟩ | ⟨he, _⟩
    · exact .inl ⟨f, t, rfl, he, by simp only [he], by simp only [he]; exact ht⟩
    · exact .inr ⟨fun g h => by cases h; exact he, by simp only [he]⟩

/-- A driver that waits on the transport makes the machine busy. -/
theorem busy_of_inflight {s : State} {id : Nat} (h : (s.driver id).inflight.isSome) : s.busy = true := by
  have hm : (id, s.driver id) ∈ s.drivers := mem_of_lookup (fun hf => by
    rw [State.driver, hf] at h; cases h)
  exact List.any_eq_true.2 ⟨_, hm, h⟩

theorem busy_of_waiting {s : State} {id : Nat} {f : Inflight} (h : (s.driver id).inflight = some f) : s.busy = true :=
  busy_of_inflight (by rw [h]; rfl)

/-- While an operation waits, the caller cannot move (R48). -/
theorem not_ready_of_busy {s : State} (h : s.busy = true) : s.callerReady = false := by
  simp [State.callerReady, h]

theorem ready_iff {s : State} : s.callerReady = true ↔ s.busy = false ∧ s.program.isDone = false := by
  simp [State.callerReady]

/-- The caller's turn: no call is at the head of the inputs and nothing is in flight. -/
def State.CallerTurn (s : State) : Prop :=
  (s.inputs = [] ∨ ∃ id a rest, s.inputs = .answer id a :: rest) ∧ s.busy = false

/-- What a step may do. -/
inductive StepEffect (s t : State) : Prop
  | call (op : Op) (rest : List Input) (hi : s.inputs = .call op :: rest)
      (he : CallEffect op { s with inputs := rest } t)
  | answer (id : Nat) (a : Answer) (rest : List Input) (hi : s.inputs = .answer id a :: rest)
      (hr : s.callerReady = false) (he : AnswerEffect id a { s with inputs := rest } t)
  | drawn (n : Nat) (f : Inflight) (hi : s.inputs = []) (hb : s.busy = true) (hn : s.transport = .drawn n)
      (hf : (s.driver (Config.draw n).driver).inflight = some f)
      (he : AnswerEffect (Config.draw n).driver (drawnAnswer (Config.draw n) f)
        { s with transport := .drawn (n + 1) } t)
  | noAnswer (n : Nat) (hi : s.inputs = []) (hb : s.busy = true) (hn : s.transport = .drawn n)
      (hf : ∀ f, (s.driver (Config.draw n).driver).inflight = some f →
        s.expects (Config.draw n).driver (drawnAnswer (Config.draw n) f) = false)
      (ht : t = { s with transport := .drawn (n + 1) })
  | issue (op : Op) (rest : Program) (hc : s.CallerTurn) (hp : s.program = .op op rest)
      (he : CallEffect op { s with program := rest } t)
  | skip (body rest : Program) (hc : s.CallerTurn) (hp : s.program = .rep 0 body rest)
      (ht : t = { s with program := rest })
  | again (n : Nat) (body rest : Program) (hc : s.CallerTurn) (hp : s.program = .rep (n + 1) body rest)
      (ht : t = { s with program := body.append (.rep n body rest) })
  | forever (body rest : Program) (hc : s.CallerTurn) (hp : s.program = .forever body rest)
      (ht : t = { s with program := body.append (.forever body rest) })
  | wait (hi : s.inputs = []) (hw : s.busy = true ∧ s.transport = .silent ∨ s.busy = false ∧ s.program = .done)
      (ht : t = s)

/-- What the caller's turn may do, when its program has not ended. -/
theorem callerStep_next {s t : State} (hc : s.CallerTurn) (hd : s.program ≠ .done) (h : callerStep s = .next t) :
    StepEffect s t := by
  unfold callerStep at h
  split at h
  · contradiction
  · rename_i op rest hp; exact .issue op rest hc hp (call_next h)
  · rename_i body rest hp; cases h; exact .skip body rest hc hp rfl
  · rename_i n body rest hp; cases h; exact .again n body rest hc hp rfl
  · rename_i body rest hp; cases h; exact .forever body rest hc hp rfl

theorem step_next {s t : State} (h : step s = .next t) : StepEffect s t := by
  unfold step at h
  split at h
  · rename_i op rest hi; exact .call op rest hi (call_next h)
  · rename_i id a rest hi
    unfold answerStep at h
    split at h
    · rename_i hr
      rw [ready_iff] at hr
      exact callerStep_next ⟨.inr ⟨id, a, rest, hi⟩, hr.1⟩ (fun hd => by rw [hd] at hr; cases hr.2) h
    · rename_i hr; exact .answer id a rest hi hr (answer_next h)
  · rename_i hi
    unfold quietStep at h
    split at h
    · rename_i hb
      unfold transportStep at h
      split at h
      · rename_i hs; cases h; exact .wait hi (.inl ⟨hb, hs⟩) rfl
      · rename_i n hn
        rcases takeDraw_cases (Config.draw n) { s with transport := .drawn (n + 1) } with ⟨f, _, hf, _, ha, _⟩ | ⟨hf, hd⟩
        · exact .drawn n f hi hb hn hf (answer_next (ha.symm.trans h))
        · rw [hd] at h; cases h; exact .noAnswer n hi hb hn hf rfl
    · rename_i hb
      by_cases hd : s.program = .done
      · simp only [callerStep, hd] at h
        cases h
        exact .wait hi (.inr ⟨hb, hd⟩) rfl
      · exact callerStep_next ⟨.inl hi, hb⟩ hd h

/-- A call that has arrived is taken at once. -/
theorem step_call {s : State} {op : Op} {rest : List Input} (h : s.inputs = .call op :: rest) :
    step s = call op { s with inputs := rest } := by
  simp only [step, h]

/-- An answer is taken when the caller cannot move. -/
theorem step_answer {s : State} {id : Nat} {a : Answer} {rest : List Input} (h : s.inputs = .answer id a :: rest)
    (hr : s.callerReady = false) : step s = answer id a { s with inputs := rest } := by
  simp only [step, h, answerStep, hr]

/-- In the caller's turn a program that has not ended goes on, whatever answers are still to come. -/
theorem step_caller {s : State} (hc : s.CallerTurn) (hd : s.program.isDone = false) : step s = callerStep s := by
  rcases hc with ⟨hi | ⟨id, a, rest, hi⟩, hb⟩
  · simp only [step, hi, quietStep, hb]
  · simp only [step, hi, answerStep, ready_iff.2 ⟨hb, hd⟩]

/-- With no input, a waiting operation leaves the turn to the transport. -/
theorem step_transport {s : State} (hi : s.inputs = []) (hb : s.busy = true) : step s = transportStep s := by
  simp only [step, hi, quietStep, hb]

/-- A drawn answer is of the kind the request may get. -/
theorem drawnAnswer_expected (d : Config.Draw) (f : Inflight) : f.expects (drawnAnswer d f) = true := by
  cases f <;> simp only [drawnAnswer] <;> first | rfl | (split <;> rfl)

/-- Driving any machine on from a step that goes on. -/
theorem run_next_of (M : Host.Core) (n : Nat) (s t : M.State) (h : M.step s = .next t) :
    M.run (n + 1) s = M.run n t := by
  simp only [Host.Core.run, h]

/-- Driving this machine on from a step that goes on. -/
theorem run_next {s t : State} (n : Nat) (h : step s = .next t) :
    Host.Core.run core (n + 1) s = Host.Core.run core n t := run_next_of core n s t h

theorem run_zero (s : State) : Host.Core.run core 0 s = .next s := rfl

/-- A path another driver holds is taken (R161). -/
theorem pathTaken_of_holder {s : State} {id j : Nat} {p : Nat × Nat} (hj : j ≠ id)
    (h : (s.driver j).path? = some p) : s.pathTaken id p = true := by
  have hm : (j, s.driver j) ∈ s.drivers := mem_of_lookup (fun hf => by
    rw [State.driver, hf] at h; cases h)
  exact List.any_eq_true.2 ⟨_, hm, by simp [hj, h]⟩

/-- A handle another driver owns is taken (R25). -/
theorem handleTaken_of_holder {s : State} {id j : Nat} {h : Handle} (hj : j ≠ id)
    (hh : (s.driver j).held? = some h) : s.handleTaken id h = true := by
  have hm : (j, s.driver j) ∈ s.drivers := mem_of_lookup (fun hf => by
    rw [State.driver, hf] at hh; cases hh)
  exact List.any_eq_true.2 ⟨_, hm, by simp [hj, hh]⟩

/-- In a well-formed table a taken handle has another owner. -/
theorem holder_of_handleTaken {s : State} {id : Nat} {h : Handle} (hwf : tableWF s.drivers)
    (ht : s.handleTaken id h = true) : ∃ j, j ≠ id ∧ (s.driver j).held? = some h := by
  obtain ⟨e, he, hp⟩ := List.any_eq_true.1 ht
  simp only [Bool.and_eq_true, bne_iff_ne, ne_eq, beq_iff_eq] at hp
  exact ⟨e.1, hp.1, by rw [State.driver, lookup_of_mem hwf he]; exact hp.2⟩

end Sys2Proof.Machine
end

