-- ==== Sys2Proof/Laws/PerInstr.lean ====
section
/-! SUPPORT. The per-instruction family ThreeBytes: every instruction's frame has exactly FRAME_LEN bytes and travels the
way its row's format says (R70). -/

namespace Sys2Proof.Laws.ThreeBytes

/-- R70: the frame of `i` is three bytes long; it is a command exactly when `i` has a channel. -/
def Statement (i : Instr) : Prop :=
  (encode i).length = Config.frameLen ∧ (i.direction = .command ↔ i.channel?.isSome)

theorem cmdSeCh1 : Statement .cmdSeCh1 := ⟨rfl, fun _ => rfl, fun _ => rfl⟩
theorem cmdSeCh2 : Statement .cmdSeCh2 := ⟨rfl, fun _ => rfl, fun _ => rfl⟩
theorem cmdSeCh3 : Statement .cmdSeCh3 := ⟨rfl, fun _ => rfl, fun _ => rfl⟩
theorem cmdSeCh4 : Statement .cmdSeCh4 := ⟨rfl, fun _ => rfl, fun _ => rfl⟩
theorem cmdSeCh5 : Statement .cmdSeCh5 := ⟨rfl, fun _ => rfl, fun _ => rfl⟩
theorem cmdSeCh6 : Statement .cmdSeCh6 := ⟨rfl, fun _ => rfl, fun _ => rfl⟩
theorem cmdSeCh7 : Statement .cmdSeCh7 := ⟨rfl, fun _ => rfl, fun _ => rfl⟩
theorem cmdSeCh8 : Statement .cmdSeCh8 := ⟨rfl, fun _ => rfl, fun _ => rfl⟩
theorem reply (r0 r1 r2 : Byte) : Statement (.reply r0 r1 r2) := ⟨rfl, nofun, nofun⟩

end Sys2Proof.Laws.ThreeBytes
end

