-- ==== Sys2Proof/Tests/Slice0.lean ====
section
/-! SUPPORT. Tests. Expected values are the spec's: the vectors of spec/95_test_vectors.md (named in each comment) and the
encodings of spec/30_encoding.md. After them, for every statement with hypotheses, a state and operands that meet them
all together. -/

namespace Sys2Proof.Tests

open Machine

/-! Small states and what is compared of an outcome. -/

/-- The default configuration (R125). -/
def defaultCfg : BusConfig := { bus := 0, device := 0, mode := 0, bitsPerWord := 8, maxClockHz := 500000 }

/-- Driver 0 as given, and some inputs. -/
def oneDriver (d : Driver) (inputs : List Input) : State :=
  { drivers := [(0, d)], serving := none, inputs := inputs, transport := .silent, program := .done, outputs := [] }

/-- An open driver with handle 7 on the default path. -/
def openDriver7 (f : Option Inflight) : Driver :=
  { life := .opened, handle := some 7, cfg := some defaultCfg, inflight := f }

/-- A driver in construction. -/
def constructing (f : Inflight) : Driver := { life := .absent, handle := none, cfg := none, inflight := some f }

def closedDriver : Driver := { life := .closed, handle := none, cfg := some defaultCfg, inflight := none }

/-- Drivers 0 and 1 as given, and some inputs. -/
def twoDrivers (d e : Driver) (inputs : List Input) : State := { oneDriver d inputs with drivers := [(0, d), (1, e)] }

/-- Driver 0 as given, a program and some inputs. -/
def running (d : Driver) (p : Program) (inputs : List Input) : State := { oneDriver d inputs with program := p }

/-- The body READ 1 of the polling program (R138), on driver 0. -/
def read1 : Program := .op (.read 0 1) .done

/-- The start with some inputs. -/
def fromReset (inputs : List Input) : State := { State.reset with inputs := inputs }

def outputsOf : Host.Outcome State Fault Refusal → Option (List Output)
  | .next s => some s.outputs
  | .fault _ | .refused _ => none

def driverOf (id : Nat) : Host.Outcome State Fault Refusal → Option Driver
  | .next s => some (s.driver id)
  | .fault _ | .refused _ => none

def programOf : Host.Outcome State Fault Refusal → Option Program
  | .next s => some s.program
  | .fault _ | .refused _ => none

def refusalOf : Host.Outcome State Fault Refusal → Option Refusal
  | .refused r => some r
  | .next _ | .fault _ => none

def faultOf : Host.Outcome State Fault Refusal → Option Fault
  | .fault f => some f
  | .next _ | .refused _ => none

/-! WellFormed: the legality check of commands refuses each kind of word 30_encoding.md R67 names. `Instr.WellFormed`
itself refuses no term, because no constructor has an operand that could be illegal (R69). -/

theorem test_wf_accepts_channel_3 : FrameWord.isCommand 0x068000#24 = true := by decide
theorem test_wf_refuses_differential : FrameWord.isCommand 0x040000#24 = false := by decide
theorem test_wf_refuses_no_start_bit : FrameWord.isCommand 0x020000#24 = false := by decide
theorem test_wf_refuses_high_bit : FrameWord.isCommand 0x0E0000#24 = false := by decide
theorem test_wf_refuses_low_bit : FrameWord.isCommand 0x062000#24 = false := by decide
theorem test_wf_refuses_padding_bit : FrameWord.isCommand 0x060001#24 = false := by decide
theorem test_wf_every_row_is_well_formed : ∀ r ∈ frameMap, r.1.WellFormed = true := by decide

/-! Decode: each command's bytes written bit by bit from 30_encoding.md R62 with the selector of R66, and replies. -/

theorem test_decode_ch1 : decode .command [0b00000110, 0b00000000, 0b00000000] = .instr .cmdSeCh1 := by decide
theorem test_decode_ch2 : decode .command [0b00000110, 0b01000000, 0b00000000] = .instr .cmdSeCh2 := by decide
theorem test_decode_ch3 : decode .command [0b00000110, 0b10000000, 0b00000000] = .instr .cmdSeCh3 := by decide
theorem test_decode_ch4 : decode .command [0b00000110, 0b11000000, 0b00000000] = .instr .cmdSeCh4 := by decide
theorem test_decode_ch5 : decode .command [0b00000111, 0b00000000, 0b00000000] = .instr .cmdSeCh5 := by decide
theorem test_decode_ch6 : decode .command [0b00000111, 0b01000000, 0b00000000] = .instr .cmdSeCh6 := by decide
theorem test_decode_ch7 : decode .command [0b00000111, 0b10000000, 0b00000000] = .instr .cmdSeCh7 := by decide
theorem test_decode_ch8 : decode .command [0b00000111, 0b11000000, 0b00000000] = .instr .cmdSeCh8 := by decide
theorem test_decode_reply : decode .reply [0xFF, 0x03, 0xA5] = .instr (.reply 0xFF 0x03 0xA5) := by decide
theorem test_decode_command_as_reply : decode .reply [0x06, 0x00, 0x00] = .instr (.reply 0x06 0x00 0x00) := by decide
theorem test_decode_rejects_zero_frame : decode .command [0, 0, 0] = .rejected (.notACommand 0) := by decide
theorem test_decode_rejects_two_bytes : decode .reply [0x03, 0xA5] = .rejected (.notThreeBytes 2) := by decide
theorem test_decode_rejects_four_bytes : decode .command [0x06, 0, 0, 0] = .rejected (.notThreeBytes 4) := by decide

/-! ENCODE (95_test_vectors.md tables E and EP). -/

theorem test_encode_1 : encodeChannel 1 = some ⟨0x06, 0x00, 0x00⟩ := by decide
theorem test_encode_4 : encodeChannel 4 = some ⟨0x06, 0xC0, 0x00⟩ := by decide
theorem test_encode_5 : encodeChannel 5 = some ⟨0x07, 0x00, 0x00⟩ := by decide
theorem test_encode_8 : encodeChannel 8 = some ⟨0x07, 0xC0, 0x00⟩ := by decide
theorem test_encode_refuses :
    encodeChannel 0 = none ∧ encodeChannel 9 = none ∧ encodeChannel (-1) = none ∧ encodeChannel (-8) = none ∧
      encodeChannel 16 = none ∧ encodeChannel 17 = none ∧ encodeChannel 2147483648 = none := by decide
theorem test_ports_legal : encPorts 0x08 = ⟨0x07, 0xC0, 0x00, false⟩ := by decide
theorem test_ports_illegal : encPorts 0x09 = ⟨0x00, 0x00, 0x00, true⟩ ∧ encPorts 0x10 = ⟨0x00, 0x00, 0x00, true⟩ := by
  decide

/-! DECODE (95_test_vectors.md table D). -/

theorem test_sample_t16 : decodeSample 0xFF 0x03 0xA5 = 933#12 := by decide
theorem test_sample_ignores_high_nibble : decodeSample 0xAA 0xF0 0x00 = 0#12 ∧ decodeSample 0x12 0x1F 0x80 = 3968#12 := by
  decide

/-! Steps of operations (95_test_vectors.md tables R, O, C; programs P4 and P5). -/

theorem test_step_encode_4_from_reset :
    outputsOf (step (fromReset [.call (.encode 4)])) = some [.result none (.frame 0x06 0xC0 0x00)] := by decide
theorem test_step_encode_0_from_reset :
    outputsOf (step (fromReset [.call (.encode 0)])) = some [.result none (.error (.invalidChannel 0))] := by decide
theorem test_step_decode_from_reset :
    outputsOf (step (fromReset [.call (.decode 0x00 0x0C 0x34)])) = some [.result none (.sample 3124#12)] := by decide
theorem test_fetch_channel_6 :
    outputsOf (step (State.reset.withFetchWord 24 0x074000)) = some [.result none (.frame 0x07 0x40 0x00)] := by decide
theorem test_read_1_sends_its_frame :
    outputsOf (step (oneDriver (openDriver7 none) [.call (.read 0 1)])) = some [.request 0 (.transfer 7 0x06 0x00 0x00)] := by
  decide
theorem test_read_reply_t17 :
    outputsOf (step (oneDriver (openDriver7 (some .transfer)) [.answer 0 (.reply [0x00, 0x0F, 0xFF])])) =
      some [.result (some 0) (.sample 4095#12)] := by decide
theorem test_read_two_bytes_fails :
    outputsOf (step (oneDriver (openDriver7 (some .transfer)) [.answer 0 (.reply [0x00, 0x0F])])) =
      some [.result (some 0) (.error .transferFailed)] := by decide
theorem test_read_0_open :
    outputsOf (step (oneDriver (openDriver7 none) [.call (.read 0 0)])) =
      some [.result (some 0) (.error (.invalidChannel 0))] := by decide
theorem test_read_0_closed_is_not_open :
    outputsOf (step (oneDriver closedDriver [.call (.read 0 0)])) = some [.result (some 0) (.error .notOpen)] := by decide
theorem test_read_absent_refused : refusalOf (step (fromReset [.call (.read 0 1)])) = some .noDriver := by decide
theorem test_open_asks :
    outputsOf (step (fromReset [.call (.openDriver 0 { mode := some 3, maxClockHz := some 1000000 })])) =
      some [.request 0 (.tOpen 0 0)] := by decide
theorem test_open_configured :
    driverOf 0 (answerConfigure (fun _ => true) 0 { defaultCfg with mode := 4 } 7 .verdict
      (oneDriver (constructing (.tConfigure { defaultCfg with mode := 4 } 7)) [])) =
      some { life := .opened, handle := some 7, cfg := some { defaultCfg with mode := 4 }, inflight := none } := by decide
theorem test_open_rejected_releases :
    outputsOf (answerConfigure (fun c => c.mode < 4) 0 { defaultCfg with mode := 4 } 7 .verdict
      (oneDriver (constructing (.tConfigure { defaultCfg with mode := 4 } 7)) [])) = some [.request 0 (.tClose 7)] := by decide
theorem test_open_failed_leaves_absent :
    driverOf 0 (step (oneDriver (constructing (.tOpen { defaultCfg with bus := 7 })) [.answer 0 .openFailed])) =
      some Driver.fresh := by decide
theorem test_close_closes :
    driverOf 0 (step (oneDriver (openDriver7 (some .tClose)) [.answer 0 .released])) = some closedDriver := by decide
theorem test_close_twice :
    outputsOf (step (oneDriver closedDriver [.call (.close 0)])) = some [.result (some 0) (.error .notOpen)] := by decide
theorem test_same_path_refused :
    refusalOf (step (oneDriver (openDriver7 none) [.call (.openDriver 1 {})])) = some .sharedPath := by decide
theorem test_handle_of_another_driver_faults :
    faultOf (step (twoDrivers (openDriver7 none) (constructing (.tOpen { defaultCfg with bus := 1 })) [.answer 1 (.opened 7)])) =
      some .sharedHandle := by decide
theorem test_drawn_handle_of_another_driver_is_no_answer :
    driverOf 1 (takeDraw { driver := 1, success := true, handle := 7, reply := [] }
      (twoDrivers (openDriver7 none) (constructing (.tOpen { defaultCfg with bus := 1 })) [])) =
      some (constructing (.tOpen { defaultCfg with bus := 1 })) := by decide
theorem test_unsolicited_answer_faults :
    faultOf (step (oneDriver (openDriver7 none) [.answer 0 .released])) = some .unsolicitedAnswer := by decide
theorem test_polling_issues_a_read :
    outputsOf (step (running (openDriver7 none) (.op (.read 0 1) (.forever read1 .done)) [])) =
      some [.request 0 (.transfer 7 0x06 0x00 0x00)] := by decide

/-! Turns of the agents (R8, R48, R71, R138): the caller asks before an answer that is already there is taken. -/

theorem test_open_goes_before_its_answer :
    outputsOf (step { fromReset [.answer 0 (.opened 7)] with program := .op (.openDriver 0 {}) (.forever read1 .done) }) =
      some [.request 0 (.tOpen 0 0)] := by decide
theorem test_waiting_caller_leaves_the_turn_to_the_answer :
    outputsOf (step (running (openDriver7 (some .transfer)) (.forever read1 .done) [.answer 0 (.reply [0xFF, 0x03, 0xA5])])) =
      some [.result (some 0) (.sample 933#12)] := by decide
theorem test_repeat_2_takes_another_turn :
    programOf (step (running (openDriver7 none) (.rep 2 read1 .done) [.answer 0 (.reply [0, 0, 1])])) =
      some (.op (.read 0 1) (.rep 1 read1 .done)) := by decide

/-! Witnesses: concrete states and operands that meet all hypotheses of a statement together. -/

/-- A state that keeps the invariant and is not the start: driver 0 open, with any request and inputs it may have. -/
theorem inv_oneDriver {d : Driver} (inputs : List Input) (h : d.WF) (hf : d ≠ Driver.fresh) :
    (oneDriver d inputs).Inv := by
  have hd : ∀ j, (oneDriver d inputs).driver j = if j = 0 then d else Driver.fresh := fun j => rfl
  have one : ∀ {α : Type} (g : Driver → Option α), g Driver.fresh = none → ∀ i j x,
      g ((oneDriver d inputs).driver i) = some x → g ((oneDriver d inputs).driver j) = some x → i = j := by
    intro α g hg i j x h1 h2
    rw [hd] at h1 h2
    split at h1
    · split at h2
      · omega
      · rw [hg] at h2; cases h2
    · rw [hg] at h1; cases h1
  refine ⟨⟨by simp [oneDriver], by simpa [oneDriver] using hf⟩, fun j => ?_, one Driver.path? rfl, one Driver.held? rfl, rfl, by simp [oneDriver, busFrames]⟩
  · rw [hd]
    split
    · exact h
    · simp [Driver.WF, Driver.fresh]

theorem openDriver7_wf (f : Option Inflight) (h : f = none ∨ f = some .transfer ∨ f = some .tClose) :
    (openDriver7 f).WF := ⟨rfl, rfl, h⟩

theorem witness_CommandRowsReturnTheirFrame : (fromReset []).serving = none ∧ frameMap.length = 8 := by decide
theorem witness_CommandRowsTransferInsideARead :
    ({ oneDriver (openDriver7 none) [] with serving := some 0 }).serving = some 0 ∧
    (State.driver { oneDriver (openDriver7 none) [] with serving := some 0 } 0).handle = some 7 := by decide
theorem witness_CommandRowsStopWithoutAHandle :
    ({ fromReset [] with serving := some 0 }).serving = some 0 ∧
    (State.driver { fromReset [] with serving := some 0 } 0).handle = none := by decide
theorem witness_ReplyReturnsItsSample : (fromReset []).serving = none := by decide
theorem witness_ReplyCompletesARead :
    ({ oneDriver (openDriver7 (some .transfer)) [] with serving := some 0 }).serving = some 0 := by decide
theorem witness_EveryReplyDecodes : (0x1F#8 &&& 0x0F#8) = (0xEF#8 &&& 0x0F#8) ∧ 0x1F#8 ≠ 0xEF#8 := by decide
theorem witness_EncodeIsLegalExactlyOnOneToEight :
    ∀ c ∈ [(0 : Int), 1, 8, 9, -7], ((fromReset [.call (.encode c)]).inputs = .call (.encode c) :: []) ∧
      (1 ≤ c ∧ c ≤ 8 ↔ c ∈ [(1 : Int), 8]) := by decide
theorem witness_EncodeDependsOnTheChannelAlone :
    (oneDriver closedDriver [.call (.encode 5)]).inputs = [.call (.encode 5)] ∧
    (fromReset [.call (.encode 5)]).inputs = [.call (.encode 5)] := by decide
theorem witness_DecodeAndEncodeAgree : decode .command [0x07, 0xC0, 0x00] = .instr .cmdSeCh8 := by decide
theorem witness_CommandCheckRejects : decode .command [0x05, 0x00, 0x00] = .rejected (.notACommand 0x050000) := by decide
theorem witness_DecodeIsABijectionOnTwelveBits : (0 : Nat) ≤ 4095 ∧ (4095 : Nat) ≤ 4095 := by decide
theorem witness_FramesNameTheirChannel :
    LegalChannel 1 ∧ LegalChannel 8 ∧ encodeChannel 8 = some ⟨0x07, 0xC0, 0x00⟩ := by decide
theorem witness_PortsAreTheOperations : ∀ x ∈ [0x00#8, 0x09#8, 0xFF#8], ¬ (1 ≤ x.toNat ∧ x.toNat ≤ 8) := by decide
theorem witness_StepRunsTheFetchedInstruction :
    decodeTableWord 24 0x06C000 = some .cmdSeCh4 ∧ decodeTableWord 24 0x0003A5 = some (.reply 0x00 0x03 0xA5) := by decide
theorem witness_StepRunsTheDecodedInstruction :
    encodeChannel 2 = some ⟨0x06, 0x40, 0x00⟩ ∧ decode .command [0x06, 0x40, 0x00] = .instr .cmdSeCh2 ∧
    (State.driver (oneDriver (openDriver7 none) [.call (.read 0 2)]) 0).life = .opened ∧
    (State.driver (oneDriver (openDriver7 none) [.call (.read 0 2)]) 0).inflight = none ∧
    (oneDriver (openDriver7 none) [.call (.read 0 2)]).inputs = [.call (.read 0 2)] := by decide
theorem witness_StepRunsTheDecodedReply :
    decode .reply [0x00, 0x01, 0x00] = .instr (.reply 0x00 0x01 0x00) ∧
    (State.driver (oneDriver (openDriver7 (some .transfer)) [.answer 0 (.reply [0x00, 0x01, 0x00])]) 0).inflight =
      some .transfer ∧
    (fromReset [.call (.decode 0 1 0)]).inputs = [.call (.decode 0 1 0)] ∧
    (fromReset [.call (.encode 2)]).inputs = [.call (.encode 2)] := by decide
theorem witness_OpenFillsDefaultsAndAsks :
    (fromReset [.call (.openDriver 0 {})]).inputs = [.call (.openDriver 0 {})] ∧
    (State.driver (fromReset [.call (.openDriver 0 {})]) 0) = Driver.fresh ∧
    (fromReset [.call (.openDriver 0 {})]).pathTaken 0 ((fillDefaults {}).bus, (fillDefaults {}).device) = false := by decide
/-- The four inputs of an OPEN with every field omitted and of its answers, and the start with them. -/
def openInputs : List Input := [.call (.openDriver 0 {}), .answer 0 (.opened 7), .answer 0 .verdict, .answer 0 .released]

/-- One state meets the hypotheses of SuccessfulOpenLeavesTheDriverOpen on a machine whose TRANSPORT_ACCEPTS holds of the
default configuration, and those of RejectedConfigReleasesTheHandle on every other; the parameter is free, and on each
machine it takes one of the two values. -/
theorem witness_SuccessfulOpen_or_RejectedConfig :
    (fromReset openInputs).inputs = .call (.openDriver 0 {}) :: .answer 0 (.opened 7) :: .answer 0 .verdict :: [.answer 0 .released] ∧
    (State.driver (fromReset openInputs) 0) = Driver.fresh ∧
    (fromReset openInputs).pathTaken 0 ((fillDefaults {}).bus, (fillDefaults {}).device) = false ∧
    (fromReset openInputs).handleTaken 0 7 = false ∧
    (Config.transportAccepts (fillDefaults {}) = true ∨ Config.transportAccepts (fillDefaults {}) = false) :=
  ⟨rfl, by decide, by decide, by decide, by cases Config.transportAccepts (fillDefaults {}) <;> simp⟩
theorem witness_FailedOpenRaisesTransportUnavailable :
    (fromReset [.call (.openDriver 0 {}), .answer 0 .openFailed]).inputs = [.call (.openDriver 0 {}), .answer 0 .openFailed] ∧
    (State.driver (fromReset [.call (.openDriver 0 {}), .answer 0 .openFailed]) 0) = Driver.fresh ∧
    (fromReset [.call (.openDriver 0 {}), .answer 0 .openFailed]).pathTaken 0 ((fillDefaults {}).bus, (fillDefaults {}).device) = false := by decide
theorem witness_OpenFollowsTheTransportsVerdict :
    (fun c : BusConfig => decide (c.mode < 4)) defaultCfg = true ∧
    (fun c : BusConfig => decide (c.mode < 4)) { defaultCfg with mode := 4 } = false ∧
    (oneDriver (constructing (.tConfigure defaultCfg 7)) [.answer 0 .verdict]).inputs = [.answer 0 .verdict] ∧
    (State.driver (oneDriver (constructing (.tConfigure defaultCfg 7)) [.answer 0 .verdict]) 0).inflight =
      some (.tConfigure defaultCfg 7) := by decide
theorem witness_OneVerdictPerConfiguration :
    (State.driver (oneDriver (constructing (.tConfigure defaultCfg 7)) [.answer 0 .verdict]) 0).inflight =
      some (.tConfigure defaultCfg 7) ∧
    (State.driver (twoDrivers closedDriver (constructing (.tConfigure defaultCfg 9)) [.answer 1 .verdict]) 1).inflight =
      some (.tConfigure defaultCfg 9) := by decide
theorem witness_ClosedDriversRaiseNotOpen :
    (State.driver (oneDriver closedDriver [.call (.close 0)]) 0).life = .closed ∧
    (oneDriver closedDriver [.call (.close 0)]).inputs = [.call (.close 0)] := by decide
theorem witness_InvalidChannelIsRecoverable :
    (oneDriver (openDriver7 none) [.call (.read 0 0), .call (.read 0 8)]).inputs =
      [.call (.read 0 0), .call (.read 0 8)] ∧
    (State.driver (oneDriver (openDriver7 none) [.call (.read 0 0), .call (.read 0 8)]) 0) = openDriver7 none ∧
    ¬ (1 ≤ (0 : Int) ∧ (0 : Int) ≤ 8) ∧ 1 ≤ (8 : Int) ∧ (8 : Int) ≤ 8 := by decide
theorem witness_ReadMakesOneTransfer :
    ∀ r ∈ frameMap, (oneDriver (openDriver7 none) [.call (.read 0 r.2.1)]).inputs = [.call (.read 0 r.2.1)] ∧
      (State.driver (oneDriver (openDriver7 none) [.call (.read 0 r.2.1)]) 0) = openDriver7 none := by decide
theorem witness_ReadReturnsTheTransportsValue :
    ∀ V ∈ [0, 933, 4095], V ≤ 4095 ∧
      (State.driver (oneDriver (openDriver7 none) [.call (.read 0 3),
        .answer 0 (.reply [0x55, BitVec.ofNat 8 ((V >>> 8) &&& 0x0F), BitVec.ofNat 8 (V &&& 0xFF)])]) 0) =
        openDriver7 none := by decide
theorem witness_FailedExchangeRaisesTransferFailed :
    (State.driver (oneDriver (openDriver7 (some .transfer)) [.answer 0 .transferFailed]) 0).inflight = some .transfer ∧
    ([0x00#8, 0x0F#8] : List Byte).length ≠ 3 := by decide
theorem witness_ReadOnlyExchangesAndReturns :
    (oneDriver (openDriver7 none) [.call (.read 0 1)]).nextOp? = some (.read 0 1) ∧
    (driverOf 0 (step (oneDriver (openDriver7 none) [.call (.read 0 1)]))).isSome := by decide
theorem witness_ReadOnlyExchangesAndReturns_answer :
    (oneDriver (openDriver7 (some .transfer)) [.answer 0 .transferFailed]).nextAnswered? = some 0 ∧
    (State.driver (oneDriver (openDriver7 (some .transfer)) [.answer 0 .transferFailed]) 0).inflight = some .transfer ∧
    (driverOf 0 (step (oneDriver (openDriver7 (some .transfer)) [.answer 0 .transferFailed]))).isSome := by decide
theorem witness_CloseReleasesTheHandle :
    (State.driver (oneDriver (openDriver7 none) [.call (.close 0), .answer 0 .released]) 0) = openDriver7 none := by decide
theorem witness_RefusedCases_absent :
    (Op.read 0 1).target? = some 0 ∧ (State.driver (fromReset [.call (.read 0 1)]) 0) = Driver.fresh := by decide
theorem witness_RefusedCases_exists :
    (Op.openDriver 0 {}).target? = some 0 ∧
    (State.driver (oneDriver closedDriver [.call (.openDriver 0 {})]) 0).life ≠ .absent := by decide
theorem witness_RefusedCases_constructing :
    (State.driver (oneDriver (constructing (.tOpen defaultCfg)) [.call (.close 0)]) 0).life = .absent ∧
    (State.driver (oneDriver (constructing (.tOpen defaultCfg)) [.call (.close 0)]) 0).inflight.isSome := by decide
theorem witness_RefusedCases_reading :
    (State.driver (oneDriver (openDriver7 (some .transfer)) [.call (.read 0 1)]) 0).life = .opened ∧
    (State.driver (oneDriver (openDriver7 (some .transfer)) [.call (.read 0 1)]) 0).inflight.isSome := by decide
theorem witness_RefusedCases_path :
    (State.driver (oneDriver (openDriver7 none) [.call (.openDriver 1 {})]) 1) = Driver.fresh ∧
    (State.driver (oneDriver (openDriver7 none) [.call (.openDriver 1 {})]) 0).path? =
      some ((fillDefaults {}).bus, (fillDefaults {}).device) := by decide
theorem witness_RefusedCases_path_in_construction :
    ∀ f ∈ [Inflight.tOpen defaultCfg, .tConfigure defaultCfg 7, .tRelease defaultCfg 7],
      (State.driver (oneDriver (constructing f) [.call (.openDriver 1 {})]) 1) = Driver.fresh ∧
      (State.driver (oneDriver (constructing f) [.call (.openDriver 1 {})]) 0).path? =
        some ((fillDefaults {}).bus, (fillDefaults {}).device) := by decide
theorem witness_AHungRequestWaitsForever :
    (oneDriver (openDriver7 (some .transfer)) []).inputs = [] ∧
    (oneDriver (openDriver7 (some .transfer)) []).transport = .silent ∧
    (State.driver (oneDriver (openDriver7 (some .transfer)) []) 0).inflight.isSome := by decide
theorem witness_ErrorsChangeNoWrapperState :
    outputsOf (step (oneDriver closedDriver [.call (.close 0)])) =
      some ((oneDriver closedDriver [.call (.close 0)]).outputs ++ [.result (some 0) (.error .notOpen)]) := by decide
theorem witness_Invariant_reading :
    (oneDriver (openDriver7 (some .transfer)) [.answer 0 (.reply [0, 0, 0])]).Inv ∧
    (driverOf 0 (step (oneDriver (openDriver7 (some .transfer)) [.answer 0 (.reply [0, 0, 0])]))).isSome :=
  ⟨inv_oneDriver _ (openDriver7_wf _ (.inr (.inl rfl))) (by decide), by decide⟩
theorem witness_Invariant_opening :
    (oneDriver (constructing (.tConfigure defaultCfg 7)) [.answer 0 .verdict]).Inv ∧
    (State.driver (oneDriver (constructing (.tConfigure defaultCfg 7)) [.answer 0 .verdict]) 0).life = .absent ∧
    (∃ t, step (oneDriver (constructing (.tConfigure defaultCfg 7)) [.answer 0 .verdict]) = .next t ∧
      (Config.transportAccepts defaultCfg = true → (t.driver 0).life = .opened)) := by
  refine ⟨inv_oneDriver _ (by refine ⟨rfl, rfl, ?_, ?_⟩ <;> decide) (by decide), by decide, ?_⟩
  rw [step_answer rfl (by decide)]
  show ∃ t, answerConfigure Config.transportAccepts 0 defaultCfg 7 .verdict _ = .next t ∧ _
  cases hv : Config.transportAccepts defaultCfg
  · exact ⟨_, by simp only [answerConfigure, hv]; rfl, fun h => by cases h⟩
  · exact ⟨_, by simp only [answerConfigure, hv]; rfl, fun _ => by simp⟩
theorem witness_Invariant_closing :
    (oneDriver (openDriver7 (some .tClose)) [.answer 0 .released]).Inv ∧
    (State.driver (oneDriver (openDriver7 (some .tClose)) [.answer 0 .released]) 0).life ≠ .absent ∧
    (driverOf 0 (step (oneDriver (openDriver7 (some .tClose)) [.answer 0 .released]))).map Driver.life = some .closed :=
  ⟨inv_oneDriver _ (openDriver7_wf _ (.inr (.inr rfl))) (by decide), by decide, by decide⟩
theorem witness_DriversAreIndependent :
    (oneDriver (openDriver7 none) [.call (.encode 1)]).nextOp? = some (.encode 1) ∧
    (Op.encode 1).target? ≠ some 0 ∧
    (oneDriver (openDriver7 none) [.call (.encode 1)]).nextAnswered? ≠ some 0 ∧
    (driverOf 0 (step (oneDriver (openDriver7 none) [.call (.encode 1)]))).isSome := by decide
theorem witness_OnlyReadsReachTheBus :
    outputsOf (step (oneDriver (openDriver7 none) [.call (.read 0 8)])) = some [.request 0 (.transfer 7 0x07 0xC0 0x00)] := by
  decide
theorem witness_AnswersAreTakenExactlyWhenAsked_taken :
    (oneDriver (openDriver7 (some .transfer)) [.answer 0 (.reply [])]).callerReady = false ∧
    (State.driver (oneDriver (openDriver7 (some .transfer)) [.answer 0 (.reply [])]) 0).inflight = some .transfer ∧
    Inflight.expects .transfer (.reply []) = true := by decide
theorem witness_AnswersAreTakenExactlyWhenAsked_notAsked :
    (oneDriver (openDriver7 none) [.answer 0 .released]).callerReady = false ∧
    (State.driver (oneDriver (openDriver7 none) [.answer 0 .released]) 0).inflight = none ∧
    (State.driver (oneDriver (openDriver7 (some .transfer)) [.answer 0 .released]) 0).inflight = some .transfer ∧
    Inflight.expects .transfer .released = false := by decide
theorem witness_AnswersAreTakenExactlyWhenAsked_callerFirst :
    (running (openDriver7 none) read1 [.answer 0 (.reply [0, 0, 0])]).callerReady = true ∧
    (driverOf 0 (step (running (openDriver7 none) read1 [.answer 0 (.reply [0, 0, 0])]))).isSome := by decide
theorem witness_OnlyBadAnswersFault :
    (oneDriver (openDriver7 none) [.answer 0 .released]).Inv ∧
    (oneDriver (openDriver7 none) [.answer 0 .released]).callerReady = false ∧
    faultOf (step (oneDriver (openDriver7 none) [.answer 0 .released])) = some .unsolicitedAnswer :=
  ⟨inv_oneDriver _ (openDriver7_wf _ (.inl rfl)) (by decide), by decide, by decide⟩
theorem witness_OnlyBadAnswersFault_mismatch :
    (oneDriver (openDriver7 (some .transfer)) [.answer 0 .verdict]).Inv ∧
    faultOf (step (oneDriver (openDriver7 (some .transfer)) [.answer 0 .verdict])) = some .answerMismatch :=
  ⟨inv_oneDriver _ (openDriver7_wf _ (.inr (.inl rfl))) (by decide), by decide⟩
theorem witness_OnlyBadAnswersFault_sharedHandle :
    (twoDrivers (openDriver7 none) (constructing (.tOpen { defaultCfg with bus := 1 })) [.answer 1 (.opened 7)]).callerReady = false ∧
    (State.driver (twoDrivers (openDriver7 none) (constructing (.tOpen { defaultCfg with bus := 1 })) [.answer 1 (.opened 7)]) 0).held? =
      some 7 ∧
    (State.driver (twoDrivers (openDriver7 none) (constructing (.tOpen { defaultCfg with bus := 1 })) [.answer 1 (.opened 7)]) 1).inflight =
      some (.tOpen { defaultCfg with bus := 1 }) := by decide
theorem witness_AnswersAreTakenExactlyWhenAsked_handles :
    (twoDrivers (openDriver7 none) (constructing (.tOpen { defaultCfg with bus := 1 })) [.answer 1 (.opened 7)]).handleTaken 1 7 = true ∧
    (twoDrivers (openDriver7 none) (constructing (.tOpen { defaultCfg with bus := 1 })) [.answer 1 (.opened 8)]).handleTaken 1 8 = false := by
  decide
theorem witness_CallerLoopsUnroll :
    ∀ p ∈ [Program.rep 0 read1 .done, .rep 2 read1 .done, .forever read1 .done, read1],
      (running (openDriver7 none) p []).inputs = [] ∧ (running (openDriver7 none) p []).busy = false ∧
      (running (openDriver7 none) p [.answer 0 (.reply [0, 0, 0])]).inputs = [.answer 0 (.reply [0, 0, 0])] ∧
      (running (openDriver7 none) p [.answer 0 (.reply [0, 0, 0])]).busy = false ∧
      (running (openDriver7 none) p []).program = p := by decide
theorem witness_PollingHandsBackEveryReply :
    ∀ s ∈ [{ fromReset [.answer 0 (.opened 7), .answer 0 .verdict, .answer 0 (.reply [0xFF, 0x03, 0xA5])] with
              program := .op (.openDriver 0 {}) (.forever read1 .done) }],
      (State.driver s 0) = Driver.fresh ∧ s.busy = false ∧ s.pathTaken 0 (0, 0) = false ∧
      s.handleTaken 0 7 = false ∧
      s.inputs = .answer 0 (.opened 7) :: .answer 0 .verdict ::
        ([((0xFF#8 : Byte), (0x03#8 : Byte), (0xA5#8 : Byte))].map (fun r => Input.answer 0 (.reply [r.1, r.2.1, r.2.2])) ++ []) := by
  decide
theorem witness_RepeatRunsItsBodyToCompletion :
    ∀ s ∈ [running (openDriver7 none) (.rep 2 read1 .done) [.answer 0 (.reply [0, 0, 1]), .answer 0 (.reply [0, 0, 2])]],
      (State.driver s 0).life = .opened ∧ (State.driver s 0).handle = some 7 ∧ s.busy = false ∧
      (.cmdSeCh1, 1, 0x06#8, 0x00#8, 0x00#8) ∈ frameMap ∧
      s.inputs = [((0#8 : Byte), (0#8 : Byte), (1#8 : Byte)), (0#8, 0#8, 2#8)].map
        (fun x => Input.answer 0 (.reply [x.1, x.2.1, x.2.2])) := by decide
theorem witness_DrawnAnswersKeepTheContract :
    ∀ n, State.inputs { oneDriver (openDriver7 (some .transfer)) [] with transport := .drawn n } = [] ∧
      State.busy { oneDriver (openDriver7 (some .transfer)) [] with transport := .drawn n } = true ∧
      State.transport { oneDriver (openDriver7 (some .transfer)) [] with transport := .drawn n } = .drawn n :=
  fun _ => ⟨rfl, rfl, rfl⟩
theorem witness_DrawnAnswersKeepTheContract_clauses :
    ∀ s ∈ [twoDrivers (openDriver7 none) (constructing (.tOpen { defaultCfg with bus := 1 })) []],
      (State.driver s 1).inflight = some (.tOpen { defaultCfg with bus := 1 }) ∧ (State.driver s 0).inflight = none ∧
      (∀ h ∈ [7, 8], drawnAnswer { driver := 1, success := true, handle := h, reply := [] } (.tOpen { defaultCfg with bus := 1 }) =
        .opened h) ∧
      s.handleTaken 1 7 = true ∧ s.handleTaken 1 8 = false := by decide
/-- Beside the witnesses of the invariant: a driver that comes to own a handle. -/
theorem witness_HandlesAreOwnedExclusively :
    (oneDriver (constructing (.tOpen defaultCfg)) [.answer 0 (.opened 7)]).Inv ∧
    (State.driver (oneDriver (constructing (.tOpen defaultCfg)) [.answer 0 (.opened 7)]) 0).held? = none ∧
    (driverOf 0 (step (oneDriver (constructing (.tOpen defaultCfg)) [.answer 0 (.opened 7)]))).map Driver.held? =
      some (some 7) :=
  ⟨inv_oneDriver _ (by refine ⟨rfl, rfl, ?_, ?_⟩ <;> decide) (by decide), by decide, by decide⟩
/-- Beside the witnesses of the invariant: a driver that waits for its exchange while a call for another arrives. -/
theorem witness_AtMostOneExchangePerHandle :
    (oneDriver (openDriver7 (some .transfer)) [.call (.encode 1)]).Inv ∧
    (State.driver (oneDriver (openDriver7 (some .transfer)) [.call (.encode 1)]) 0).inflight = some .transfer ∧
    (oneDriver (openDriver7 (some .transfer)) [.call (.encode 1)]).nextOp? = some (.encode 1) ∧
    (driverOf 0 (step (oneDriver (openDriver7 (some .transfer)) [.call (.encode 1)]))).map Driver.handle = some (some 7) :=
  ⟨inv_oneDriver _ (openDriver7_wf _ (.inr (.inl rfl))) (by decide), by decide, by decide, by decide⟩
theorem witness_PollingNeverEnds :
    ∃ t, Host.Core.run core 1 { fromReset [] with program := .forever read1 .done } = .next t :=
  ⟨_, (run_next 0 rfl).trans (run_zero _)⟩

end Sys2Proof.Tests
end

/-! What one step does to one driver, said once (`DriverMove`), and from it that no two drivers come to own one handle:
the rules of 10_state.md §2 and §3 about a driver's handle and its request in flight. -/

namespace Sys2Proof.Machine

/-- What a step may do to one driver, `d` before it and `d'` after it, when the other drivers hold the paths `pathTaken`
and own the handles `handleTaken`. -/
inductive DriverMove (pathTaken : Nat × Nat → Bool) (handleTaken : Handle → Bool) (d d' : Driver) : Prop
  | kept (hd : d' = d)
  | openAsked (cfg : BusConfig) (hl : d.life = .absent) (hi : d.inflight = none)
      (hp : pathTaken (cfg.bus, cfg.device) = false) (hd : d' = { d with inflight := some (.tOpen cfg) })
  | transferAsked (h : Handle) (hl : d.life = .opened) (hi : d.inflight = none) (hh : d.handle = some h)
      (hd : d' = { d with inflight := some .transfer })
  | closeAsked (h : Handle) (hl : d.life = .opened) (hi : d.inflight = none) (hh : d.handle = some h)
      (hd : d' = { d with inflight := some .tClose })
  | handleBrought (cfg : BusConfig) (h : Handle) (hi : d.inflight = some (.tOpen cfg)) (hh : handleTaken h = false)
      (hd : d' = { d with inflight := some (.tConfigure cfg h) })
  | openFailed (cfg : BusConfig) (hi : d.inflight = some (.tOpen cfg)) (hd : d' = { d with inflight := none })
  | opened (cfg : BusConfig) (h : Handle) (hi : d.inflight = some (.tConfigure cfg h))
      (hd : d' = { life := .opened, handle := some h, cfg := some cfg, inflight := none })
  | releaseAsked (cfg : BusConfig) (h : Handle) (hi : d.inflight = some (.tConfigure cfg h))
      (hd : d' = { d with inflight := some (.tRelease cfg h) })
  | released (cfg : BusConfig) (h : Handle) (hi : d.inflight = some (.tRelease cfg h))
      (hd : d' = { d with inflight := none })
  | transferred (hi : d.inflight = some .transfer) (hd : d' = { d with inflight := none })
  | closed (hi : d.inflight = some .tClose) (hd : d' = { d with life := .closed, handle := none, inflight := none })

/-- From `s` to `t` the driver `id` makes a move and every other driver is left as it is. -/
def MovesOnly (id : Nat) (s t : State) : Prop :=
  (∀ j, j ≠ id → t.driver j = s.driver j) ∧
    DriverMove (s.pathTaken id) (s.handleTaken id) (s.driver id) (t.driver id)

theorem movesOnly_of_drivers_eq {s t : State} (id : Nat) (h : t.drivers = s.drivers) : MovesOnly id s t := by
  have hd (j : Nat) : t.driver j = s.driver j := by rw [State.driver, h, State.driver]
  exact ⟨fun j _ => hd j, .kept (hd id)⟩

/-- Writing a driver moves it and no other. -/
theorem movesOnly_of_write {s t : State} {id : Nat} {d : Driver} (ht : t.drivers = writeDriver s.drivers id d)
    (hm : DriverMove (s.pathTaken id) (s.handleTaken id) (s.driver id) d) : MovesOnly id s t := by
  have hdriver (j : Nat) : t.driver j = lookupDriver (writeDriver s.drivers id d) j := by rw [State.driver, ht]
  exact ⟨fun j hj => (hdriver j).trans (lookup_write_other _ d hj), by rwa [hdriver, lookup_write_same]⟩

/-- A call moves the driver it is issued on and no other; ENCODE and DECODE move none (R90). -/
theorem CallEffect.moves {op : Op} {s t : State} (h : CallEffect op s t) :
    t.drivers = s.drivers ∨ ∃ id, op.target? = some id ∧ MovesOnly id s t := by
  cases h with
  | encoded _ _ _ ht => exact .inl (by rw [ht, deliver_drivers])
  | badEncode _ _ _ ht => exact .inl (by rw [ht, deliver_drivers])
  | decoded _ _ _ _ ht => exact .inl (by rw [ht, deliver_drivers])
  | readClosed _ _ _ _ ht => exact .inl (by rw [ht, deliver_drivers])
  | badRead _ _ _ _ _ _ ht => exact .inl (by rw [ht, deliver_drivers])
  | closeClosed _ _ _ ht => exact .inl (by rw [ht, deliver_drivers])
  | opening id _ hop hl hi hp ht =>
    subst hop ht
    exact .inr ⟨id, rfl, movesOnly_of_write rfl (.openAsked _ hl hi hp rfl)⟩
  | reading id _ h hop hl hi _ hh ht =>
    subst hop ht
    exact .inr ⟨id, rfl, movesOnly_of_write rfl (.transferAsked h hl hi hh rfl)⟩
  | closing id h hop hl hi hh ht =>
    subst hop ht
    exact .inr ⟨id, rfl, movesOnly_of_write rfl (.closeAsked h hl hi hh rfl)⟩

/-- An answer moves the driver it is given to and no other. -/
theorem AnswerEffect.moves {id : Nat} {a : Answer} {s t : State} (h : AnswerEffect id a s t) : MovesOnly id s t := by
  cases h with
  | opened cfg h hf _ hh ht =>
    subst ht
    exact movesOnly_of_write rfl (.handleBrought cfg h hf hh rfl)
  | openFailed cfg hf _ ht =>
    subst ht
    exact movesOnly_of_write rfl (.openFailed cfg hf rfl)
  | configured cfg h hf _ _ ht =>
    subst ht
    exact movesOnly_of_write rfl (.opened cfg h hf rfl)
  | configRejected cfg h hf _ _ ht =>
    subst ht
    exact movesOnly_of_write rfl (.releaseAsked cfg h hf rfl)
  | released cfg h hf _ ht =>
    subst ht
    exact movesOnly_of_write rfl (.released cfg h hf rfl)
  | replied _ _ _ hf _ ht =>
    subst ht
    exact movesOnly_of_write rfl (.transferred hf rfl)
  | wrongLength _ hf _ _ ht =>
    subst ht
    exact movesOnly_of_write rfl (.transferred hf rfl)
  | transferFailed hf _ ht =>
    subst ht
    exact movesOnly_of_write rfl (.transferred hf rfl)
  | closed hf _ ht =>
    subst ht
    exact movesOnly_of_write rfl (.closed hf rfl)

/-- A call moves at most one driver. -/
theorem CallEffect.exists_movesOnly {op : Op} {s t : State} (h : CallEffect op s t) : ∃ id, MovesOnly id s t := by
  rcases h.moves with hd | ⟨id, _, hm⟩
  · exact ⟨0, movesOnly_of_drivers_eq 0 hd⟩
  · exact ⟨id, hm⟩

/-- A step moves at most one driver. -/
theorem exists_movesOnly_of_step {s t : State} (h : step s = .next t) : ∃ id, MovesOnly id s t := by
  cases step_next h with
  | call _ _ _ he => exact he.exists_movesOnly
  | issue _ _ _ _ he => exact he.exists_movesOnly
  | answer id _ _ _ _ he => exact ⟨id, he.moves⟩
  | drawn n _ _ _ _ _ he => exact ⟨_, he.moves⟩
  | noAnswer _ _ _ _ _ ht => exact ⟨0, movesOnly_of_drivers_eq 0 (by rw [ht])⟩
  | skip _ _ _ _ ht => exact ⟨0, movesOnly_of_drivers_eq 0 (by rw [ht])⟩
  | again _ _ _ _ _ ht => exact ⟨0, movesOnly_of_drivers_eq 0 (by rw [ht])⟩
  | forever _ _ _ _ ht => exact ⟨0, movesOnly_of_drivers_eq 0 (by rw [ht])⟩
  | wait _ _ ht => exact ⟨0, movesOnly_of_drivers_eq 0 (by rw [ht])⟩

/-- A driver whose configuration was rejected has no handle besides the one it releases (R25, R126). -/
theorem Driver.WF.handle_of_release {d : Driver} {cfg : BusConfig} {h : Handle} (hd : d.WF)
    (hi : d.inflight = some (.tRelease cfg h)) : d.handle = none := by
  unfold Driver.WF at hd
  split at hd
  · exact hd.1
  · simp [hi] at hd
  · exact hd.1

/-- A closed driver waits on nothing (R134). -/
theorem Driver.WF.inflight_of_closed {d : Driver} (hd : d.WF) (hl : d.life = .closed) : d.inflight = none := by
  simp only [Driver.WF, hl] at hd
  exact hd.2.2

/-- A driver that waits for its exchange owns the handle of the exchange. -/
theorem held_of_transfer {d : Driver} (hi : d.inflight = some .transfer) : d.held? = d.handle := by
  simp only [Driver.held?, hi]

/-- A move brings a driver no handle but one that no other driver owns (R25). -/
theorem DriverMove.held_or_free {p : Nat × Nat → Bool} {taken : Handle → Bool} {d d' : Driver} {h : Handle}
    (hm : DriverMove p taken d d') (hwf : d.WF) (hh : d'.held? = some h) : d.held? = some h ∨ taken h = false := by
  cases hm with
  | kept hd => exact .inl (hd ▸ hh)
  | openAsked _ _ hi _ hd => exact .inl (by simpa [Driver.held?, hd, hi] using hh)
  | transferAsked _ _ hi _ hd => exact .inl (by simpa [Driver.held?, hd, hi] using hh)
  | closeAsked _ _ hi _ hd => exact .inl (by simpa [Driver.held?, hd, hi] using hh)
  | handleBrought _ _ _ hfree hd =>
    obtain rfl : _ = h := by simpa [Driver.held?, hd] using hh
    exact .inr hfree
  | openFailed _ hi hd => exact .inl (by simpa [Driver.held?, hd, hi] using hh)
  | opened _ _ hi hd => exact .inl (by simpa [Driver.held?, hd, hi] using hh)
  | releaseAsked _ _ hi hd => exact .inl (by simpa [Driver.held?, hd, hi] using hh)
  | released _ _ hi hd => simp [Driver.held?, hd, hwf.handle_of_release hi] at hh
  | transferred hi hd => exact .inl (by simpa [Driver.held?, hd, hi] using hh)
  | closed _ hd => simp [Driver.held?, hd] at hh

/-- The driver that moves comes to own no handle of another driver. -/
theorem MovesOnly.handle_not_shared {id j : Nat} {s t : State} {h : Handle} (hm : MovesOnly id s t) (hinv : s.Inv)
    (hi : (t.driver id).held? = some h) (hj : (t.driver j).held? = some h) : j = id := by
  by_contra hne
  obtain ⟨hothers, hmove⟩ := hm
  rw [hothers j hne] at hj
  rcases hmove.held_or_free (hinv.driverWF id) hi with hold | hfree
  · exact hne (hinv.handles j id h hj hold)
  · exact Bool.false_ne_true (hfree.symm.trans (handleTaken_of_holder hne hj))

/-- Every step keeps the exclusive ownership of handles (R25). -/
theorem step_keeps_handles {s t : State} (hinv : s.Inv) (h : step s = .next t) (i j : Nat) (hd : Handle)
    (hi : (t.driver i).held? = some hd) (hj : (t.driver j).held? = some hd) : i = j := by
  obtain ⟨id, hm⟩ := exists_movesOnly_of_step h
  have hothers := hm.1
  by_cases hid : i = id
  · subst hid; exact (hm.handle_not_shared hinv hi hj).symm
  · by_cases hjd : j = id
    · subst hjd; exact hm.handle_not_shared hinv hj hi
    · rw [hothers i hid] at hi
      rw [hothers j hjd] at hj
      exact hinv.handles i j hd hi hj

/-- A call that goes on was issued on a driver that waits on nothing: on a waiting one it is refused (R135), and a closed
one, which answers NotOpen, never waits (R134). -/
theorem CallEffect.target_idle {op : Op} {s t : State} {id : Nat} (h : CallEffect op s t) (hwf : (s.driver id).WF)
    (hop : op.target? = some id) : (s.driver id).inflight = none := by
  cases h with
  | encoded _ ho _ _ => subst ho; cases hop
  | badEncode _ ho _ _ => subst ho; cases hop
  | decoded _ _ _ ho _ => subst ho; cases hop
  | opening _ _ ho _ hi _ _ => subst ho; cases hop; exact hi
  | readClosed _ _ ho hl _ => subst ho; cases hop; exact hwf.inflight_of_closed hl
  | badRead _ _ ho _ hi _ _ => subst ho; cases hop; exact hi
  | reading _ _ _ ho _ hi _ _ _ => subst ho; cases hop; exact hi
  | closeClosed _ ho hl _ => subst ho; cases hop; exact hwf.inflight_of_closed hl
  | closing _ _ ho _ hi _ _ => subst ho; cases hop; exact hi

/-- While an operation waits, a step issues nothing but a call that has arrived (R48). -/
theorem inputs_of_nextOp_of_busy {s : State} {op : Op} (hb : s.busy = true) (h : s.nextOp? = some op) :
    ∃ rest, s.inputs = .call op :: rest := by
  unfold State.nextOp? at h
  split at h
  · rename_i o rest hi; cases h; exact ⟨rest, hi⟩
  · simp [hb] at h
  · simp [hb] at h

/-- A step that goes on issues no operation on a driver that waits on the transport (R135). -/
theorem target_ne_of_waiting {s t : State} {id : Nat} {f : Inflight} {op : Op} (hinv : s.Inv) (h : step s = .next t)
    (hf : (s.driver id).inflight = some f) (hop : s.nextOp? = some op) : op.target? ≠ some id := by
  intro htarget
  obtain ⟨rest, hi⟩ := inputs_of_nextOp_of_busy (busy_of_waiting hf) hop
  rw [step_call hi] at h
  have hidle : (s.driver id).inflight = none := (call_next h).target_idle (hinv.driverWF id) htarget
  rw [hf] at hidle
  cases hidle

/-- Settles O51: a driver that waits for its exchange owns the handle, which no other driver does after the step, and a
call on a waiting driver gets no next state. -/
theorem atMostOneExchangePerHandle : Obligations.AtMostOneExchangePerHandle := by
  intro s t hinv hstep
  refine ⟨fun i j h hi hih hj hjh => ?_, fun id op hf hop => target_ne_of_waiting hinv hstep hf hop⟩
  exact step_keeps_handles hinv hstep i j h ((held_of_transfer hi).trans hih) ((held_of_transfer hj).trans hjh)

end Sys2Proof.Machine

/-! The REPLY row as a total function (41_decoder.md): it completes in every state, and its sample is that of the twelve
bits r1[3:0] and r2. -/

namespace Sys2Proof.Machine

/-- A sample goes to whom the codec serves: the caller of DECODE or the driver whose READ it completes. -/
theorem deliverSample_result (v : Sample) (s : State) :
    ∃ t, deliverSample v s = .next t ∧ t.outputs = s.outputs ++ [.result s.serving (.sample v)] := by
  rcases deliverSample_eq v s with ⟨hs, h⟩ | ⟨id, hs, h⟩
  · exact ⟨_, h, by rw [deliver_outputs, hs]⟩
  · exact ⟨_, h, by rw [complete_outputs, hs]⟩

/-- REPLY has no error (R103): it always completes, with the decoder's sample. -/
theorem exec_reply_result (r0 r1 r2 : Byte) (s : State) :
    ∃ t, exec (.reply r0 r1 r2) s = .next t ∧
      t.outputs = s.outputs ++ [.result s.serving (.sample (decodeSample r0 r1 r2))] :=
  deliverSample_result (decodeSample r0 r1 r2) s

/-- A sample has twelve bits. -/
theorem sample_toNat_le (v : Sample) : v.toNat ≤ 4095 := Nat.le_of_lt_succ v.isLt

/-- Nothing of r0, and of r1 only its low nibble, reaches the sample (R102). -/
theorem decodeSample_eq_of_nibble_eq (r0 r0' r2 : Byte) {r1 r1' : Byte} (h : r1 &&& 0x0F#8 = r1' &&& 0x0F#8) :
    decodeSample r0 r1 r2 = decodeSample r0' r1' r2 := by
  simp only [decodeSample, h]

/-- Settles O10: `deliverSample` always goes on, a sample has twelve bits, and `decodeSample` reads of r0 and r1 only
r1[3:0]. -/
theorem everyReplyDecodes : Obligations.EveryReplyDecodes := by
  intro s
  refine ⟨fun r0 r1 r2 => ⟨rfl, ?_⟩, fun r0 r0' r1 r1' r2 h => ?_, ?_, ?_⟩
  · obtain ⟨t, ht, hout⟩ := exec_reply_result r0 r1 r2 s
    exact ⟨t, decodeSample r0 r1 r2, ht, hout, sample_toNat_le _⟩
  · rw [exec_reply, exec_reply, decodeSample_eq_of_nibble_eq r0 r0' r2 h]
  · have hones : decodeSample 0xFF 0xFF 0xFF = 4095#12 := by decide
    exact hones ▸ exec_reply_result 0xFF 0xFF 0xFF s
  · have hzeros : decodeSample 0 0 0 = 0#12 := by decide
    exact hzeros ▸ exec_reply_result 0 0 0 s

end Sys2Proof.Machine

/-! ENCODE (40_encoder.md): the layouts of a command's bytes, and the one result that a step which takes ENCODE hands
out, a value of the channel alone. -/

namespace Sys2Proof.Machine

/-- Byte 0 by R84's formula, over the numbers. -/
theorem commandByte0_toNat (s : Selector) :
    (commandByte0 s).toNat = (1 <<< 2) ||| (1 <<< 1) ||| ((s.toNat &&& 0b100) >>> 2) := by
  revert s; decide

/-- Byte 0 by R84's layout: start bit, single-ended bit, s[2]. -/
theorem commandByte0_eq_append (s : Selector) :
    commandByte0 s = 0b00000#5 ++ 1#1 ++ 1#1 ++ s.extractLsb' 2 1 := by
  revert s; decide

/-- Byte 1 by R85's formula, over the numbers. -/
theorem commandByte1_toNat (s : Selector) :
    (commandByte1 s).toNat = (((s.toNat &&& 0b010) >>> 1) <<< 7) ||| ((s.toNat &&& 0b001) <<< 6) := by
  revert s; decide

/-- Byte 1 by R85's layout: s[1], s[0], six zero bits. -/
theorem commandByte1_eq_append (s : Selector) :
    commandByte1 s = s.extractLsb' 1 1 ++ s.extractLsb' 0 1 ++ 0b000000#6 := by
  revert s; decide

/-- s[2] tells the selectors 4 to 7 from 0 to 3. -/
theorem selector_topBit (s : Selector) : s.extractLsb' 2 1 = BitVec.ofBool (decide (4 ≤ s.toNat)) := by
  revert s; decide

/-- Byte 0 is 0x06 for the selectors 0 to 3 (R84). -/
theorem commandByte0_of_le {s : Selector} (h : s.toNat ≤ 3) : commandByte0 s = 0x06#8 := by
  have htop : decide (4 ≤ s.toNat) = false := decide_eq_false (by omega)
  rw [commandByte0_eq_append, selector_topBit, htop]
  rfl

/-- Byte 0 is 0x07 for the selectors 4 to 7 (R84). -/
theorem commandByte0_of_ge {s : Selector} (h : 4 ≤ s.toNat) : commandByte0 s = 0x07#8 := by
  rw [commandByte0_eq_append, selector_topBit, decide_eq_true h]
  rfl

/-- Bits 7 to 3 of byte 0 are clear, whatever s[2] is (R84). -/
theorem commandByte0_zeroBits (s : Selector) : (commandByte0 s).extractLsb' 3 5 = 0#5 := by
  rw [commandByte0_eq_append]
  generalize s.extractLsb' 2 1 = top
  revert top; decide

/-- Byte 1 has one of four values, one for each pair of s[1] and s[0] (R85). -/
theorem commandByte1_mem (s : Selector) : commandByte1 s ∈ [0x00#8, 0x40#8, 0x80#8, 0xC0#8] := by
  rw [commandByte1_eq_append]
  generalize s.extractLsb' 1 1 = mid, s.extractLsb' 0 1 = low
  revert mid low; decide

/-- Bits 5 to 0 of byte 1 are clear: they are the low part of its layout (R85). -/
theorem commandByte1_zeroBits (s : Selector) : (commandByte1 s).extractLsb' 0 6 = 0#6 := by
  rw [commandByte1_eq_append, BitVec.extractLsb'_append_eq_right]

/-- Settles O4: byte 0 and byte 1 have their layouts, from which their values and zero bits follow; byte 2 is a constant
of `commandFrame`. -/
theorem commandBytesFollowTheirFormulas : Obligations.CommandBytesFollowTheirFormulas := fun s =>
  ⟨⟨commandByte0_toNat s, commandByte0_eq_append s, commandByte0_of_le, commandByte0_of_ge, commandByte0_zeroBits s⟩,
    ⟨commandByte1_toNat s, commandByte1_eq_append s, commandByte1_mem s, commandByte1_zeroBits s⟩, rfl⟩

/-- What ENCODE hands out (R87): ENC's frame for a legal channel, InvalidChannel with its value for any other. -/
def encodeResult (channel : Int) : Result :=
  match encodeChannel channel with
  | some f => .frame f.b0 f.b1 f.b2
  | none => .error (.invalidChannel channel)

theorem encodeResult_legal {c : Int} (h : LegalChannel c) :
    encodeResult c = .frame (commandFrame (selector c)).b0 (commandFrame (selector c)).b1
      (commandFrame (selector c)).b2 := by
  rw [encodeResult, encodeChannel_legal h]

theorem encodeResult_illegal {c : Int} (h : ¬ LegalChannel c) : encodeResult c = .error (.invalidChannel c) := by
  rw [encodeResult, encodeChannel_illegal h]

/-- The caller's own ENCODE always completes, with `encodeResult` (R87). -/
theorem encodeFor_caller (c : Int) (s : State) :
    encodeFor none c s = .next (deliver none (encodeResult c) s) := by
  by_cases hc : LegalChannel c
  · rw [encodeFor_legal hc, encodeResult_legal hc]; rfl
  · rw [encodeFor_illegal hc, encodeResult_illegal hc]; rfl

/-- A step that takes ENCODE hands out `encodeResult` and changes nothing else. -/
theorem step_encode {s : State} {rest : List Input} {c : Int} (h : s.inputs = .call (.encode c) :: rest) :
    step s = .next { s with inputs := rest, serving := none,
                            outputs := s.outputs ++ [.result none (encodeResult c)] } :=
  (step_call h).trans (encodeFor_caller c _)

/-- Settles O12: `LegalChannel` is R81's condition, and `encodeResult` is a frame on one side of it and InvalidChannel on
the other. -/
theorem encodeIsLegalExactlyOnOneToEight : Obligations.EncodeIsLegalExactlyOnOneToEight := by
  intro s rest channel hin
  have hstep := step_encode hin
  constructor
  · intro (hc : LegalChannel channel)
    rw [encodeResult_legal hc] at hstep
    exact ⟨_, _, _, hstep⟩
  · intro (hc : ¬ LegalChannel channel)
    rwa [encodeResult_illegal hc] at hstep

/-- Settles O13: the one result is `encodeResult`, which has no state among its arguments. -/
theorem encodeDependsOnTheChannelAlone : Obligations.EncodeDependsOnTheChannelAlone :=
  fun channel => ⟨encodeResult channel, fun _ _ hin => step_encode hin⟩

end Sys2Proof.Machine

/-! REPLY as the caller's own DECODE (41_decoder.md): the sample is the two fields r1[3:0] and r2 side by side, and it is
all that the instruction hands out. -/

namespace Sys2Proof.Machine

/-- R101's layout: `sample = {r1[3:0], r2[7:0]}`. -/
theorem decodeSample_eq_append (r0 r1 r2 : Byte) : decodeSample r0 r1 r2 = r1.extractLsb' 0 4 ++ r2 := by
  have hnibble : (r1 &&& 0x0F#8).setWidth 12 = (r1.extractLsb' 0 4).setWidth 12 := by
    revert r1; decide
  rw [decodeSample, hnibble, BitVec.append_def, BitVec.shiftLeftZeroExtend_eq, BitVec.setWidth'_eq]

/-- R101's formula, over the numbers: the layout's high field is r1 modulo 16. -/
theorem decodeSample_toNat (r0 r1 r2 : Byte) :
    (decodeSample r0 r1 r2).toNat = ((r1.toNat &&& 0x0F) <<< 8) ||| r2.toNat := by
  have hmod : r1.toNat &&& 0x0F = r1.toNat % 2 ^ 4 := Nat.and_two_pow_sub_one_eq_mod r1.toNat 4
  rw [decodeSample_eq_append, BitVec.toNat_append, BitVec.extractLsb'_toNat, Nat.shiftRight_zero, hmod]

/-- Bits 11:8 of a sample are r1[3:0]. -/
theorem decodeSample_highBits (r0 r1 r2 : Byte) :
    (decodeSample r0 r1 r2).extractLsb' 8 4 = r1.extractLsb' 0 4 := by
  rw [decodeSample_eq_append, BitVec.extractLsb'_append_eq_left]

/-- Bits 7:0 of a sample are r2. -/
theorem decodeSample_lowBits (r0 r1 r2 : Byte) : (decodeSample r0 r1 r2).extractLsb' 0 8 = r2 := by
  rw [decodeSample_eq_append, BitVec.extractLsb'_append_eq_right]

/-- While the codec serves no driver, handing a result out appends it to the outputs and changes nothing else. -/
theorem deliver_of_serving_none {s : State} (hs : s.serving = none) (who : Option Nat) (r : Result) :
    deliver who r s = { s with outputs := s.outputs ++ [.result who r] } := by
  cases s; cases hs; rfl

/-- The caller's own DECODE hands out the decoder's sample and changes nothing else (R104). -/
theorem exec_reply_caller {s : State} (hs : s.serving = none) (r0 r1 r2 : Byte) :
    exec (.reply r0 r1 r2) s =
      .next { s with outputs := s.outputs ++ [.result none (.sample (decodeSample r0 r1 r2))] } := by
  have hcaller (v : Sample) : deliverSample v s = .next (deliver none (.sample v) s) := by
    rw [deliverSample, hs]
  rw [exec_reply, hcaller, deliver_of_serving_none hs]

/-- Settles O8: the caller gets `decodeSample`, whose layout gives the formula and both fields. -/
theorem replyReturnsItsSample : Obligations.ReplyReturnsItsSample := fun _ r0 r1 r2 hs =>
  ⟨decodeSample r0 r1 r2, exec_reply_caller hs r0 r1 r2, decodeSample_toNat r0 r1 r2, decodeSample_highBits r0 r1 r2,
    decodeSample_lowBits r0 r1 r2⟩

end Sys2Proof.Machine

/-! READ and OPEN one step at a time (42_transaction.md §2 and §3): what the call of each does to the machine, and what a
step may do with a READ (R132). -/

namespace Sys2Proof.Machine

/-- OPEN on a free name and path fills in the defaults, asks TOpen and waits (R124, R125). -/
theorem callOpen_free {s : State} {id : Nat} {args : ConfigArgs} (hl : (s.driver id).life = .absent)
    (hi : (s.driver id).inflight = none)
    (hp : s.pathTaken id ((fillDefaults args).bus, (fillDefaults args).device) = false) :
    callOpen id args s =
      .next (ask id (.tOpen (fillDefaults args).bus (fillDefaults args).device) (.tOpen (fillDefaults args)) s) := by
  simp only [callOpen, hl, hi, hp]

/-- Settles O18: the configuration asked for is `fillDefaults` of the operand, and `ask` changes nothing but the driver
and the outputs. -/
theorem openFillsDefaultsAndAsks : Obligations.OpenFillsDefaultsAndAsks := by
  intro s rest id args cfg hin hl hi hcfg hp
  obtain rfl : cfg = fillDefaults args := hcfg
  have hstep := (step_call hin).trans (callOpen_free (s := { s with inputs := rest }) hl hi hp)
  exact ⟨_, hstep, ask_outputs .., driver_ask_same .., fun j hj => driver_ask_other _ _ _ _ hj, rfl, rfl, rfl, rfl⟩

/-- A frame made inside the READ of a driver with a handle goes out in one Transfer on that handle (R127, R128). -/
theorem deliverFrame_of_handle {s : State} {id : Nat} {h : Handle} (f : CommandFrame) (hs : s.serving = some id)
    (hh : (s.driver id).handle = some h) :
    deliverFrame f s = .next (ask id (.transfer h f.b0 f.b1 f.b2) .transfer { s with serving := none }) := by
  simp only [deliverFrame, hs, hh]

/-- On an open idle driver READ begins with ENCODE and its check (R127). -/
theorem callRead_opened {s : State} {id : Nat} (c : Int) (hl : (s.driver id).life = .opened)
    (hi : (s.driver id).inflight = none) : callRead id c s = encodeFor (some id) c s := by
  simp only [callRead, hl, hi]

section stepRead
variable {s : State} {rest : List Input} {id : Nat} {c : Int} (hin : s.inputs = .call (.read id c) :: rest)
  (hl : (s.driver id).life = .opened) (hi : (s.driver id).inflight = none)
include hin hl hi

/-- A step that takes a READ on an open idle driver runs ENCODE for that driver. -/
theorem step_read_opened : step s = encodeFor (some id) c { s with inputs := rest } :=
  (step_call hin).trans (callRead_opened (s := { s with inputs := rest }) c hl hi)

/-- READ of an illegal channel hands out InvalidChannel and changes nothing else (R82, R127). -/
theorem step_read_illegal (hc : ¬ LegalChannel c) :
    step s = .next (deliver (some id) (.error (.invalidChannel c)) { s with inputs := rest }) :=
  (step_read_opened hin hl hi).trans (encodeFor_illegal hc (some id) _)

/-- READ of a legal channel sends the channel's frame on the driver's handle and waits (R127). -/
theorem step_read_legal {h : Handle} (hh : (s.driver id).handle = some h) (hc : LegalChannel c) :
    step s = .next (ask id (.transfer h (commandFrame (selector c)).b0 (commandFrame (selector c)).b1
      (commandFrame (selector c)).b2) .transfer { s with inputs := rest, serving := none }) := by
  rw [step_read_opened hin hl hi, encodeFor_legal hc]
  exact deliverFrame_of_handle _ rfl hh

end stepRead

/-- Settles O25: InvalidChannel is handed out by `deliver`, which keeps every driver, so the second READ meets the open
idle driver that the first one met. -/
theorem invalidChannelIsRecoverable : Obligations.InvalidChannelIsRecoverable := by
  intro s rest id c c' h hin hl hi hh (hc : ¬ LegalChannel c) (hc' : LegalChannel c')
  let t := deliver (some id) (.error (.invalidChannel c)) { s with inputs := .call (.read id c') :: rest }
  have hfirst : step s = .next t := step_read_illegal hin hl hi hc
  exact ⟨t, _, _, _, _, hfirst, rfl, fun _ => rfl, hl, step_read_legal (s := t) rfl hl hi hh hc', rfl⟩

/-- A state with other agents' turns ahead: other inputs, another transport, another program. The block itself is as
in `s`. -/
def State.withAgents (s : State) (i : List Input) (r : Transport) (p : Program) : State :=
  { s with inputs := i, transport := r, program := p }

/-- A step that issues an operation does what the operation's call does, whether the call comes from the inputs or from
the caller's program. -/
theorem callEffect_of_nextOp {s t : State} {op : Op} (h : step s = .next t) (hop : s.nextOp? = some op) :
    ∃ i p, CallEffect op (s.withAgents i s.transport p) t := by
  have hcaller (hi : s.inputs = [] ∨ ∃ id a rest, s.inputs = .answer id a :: rest) (hb : s.busy = false) {rest : Program}
      (hp : s.program = .op op rest) : ∃ i p, CallEffect op (s.withAgents i s.transport p) t := by
    rw [step_caller ⟨hi, hb⟩ (by rw [hp]; rfl), callerStep, hp] at h
    exact ⟨s.inputs, rest, call_next h⟩
  unfold State.nextOp? at hop
  split at hop
  · rename_i o rest hi
    cases hop
    rw [step_call hi] at h
    exact ⟨rest, s.program, call_next h⟩
  · rename_i id a rest hi
    split at hop
    · rename_i hb hp; cases hop; exact hcaller (.inr ⟨id, a, rest, hi⟩) hb hp
    · cases hop
  · rename_i hi
    split at hop
    · rename_i hb hp; cases hop; exact hcaller (.inl hi) hb hp
    · cases hop

/-- An exchange may be answered by every draw: a reply or a failure brings no handle (R122, R25). -/
theorem expects_drawn_transfer {s : State} (d : Config.Draw) (hf : (s.driver d.driver).inflight = some .transfer) :
    s.expects d.driver (drawnAnswer d .transfer) = true := by
  have hfree : s.bringsTaken d.driver (drawnAnswer d .transfer) = false := by
    cases hs : d.success <;> simp [drawnAnswer, hs, State.bringsTaken]
  simp [State.expects, hf, drawnAnswer_expected, hfree]

/-- A step that has an answer, given or drawn, for a driver that waits for its exchange takes that answer. -/
theorem answerEffect_of_nextAnswered {s t : State} {id : Nat} (h : step s = .next t) (hid : s.nextAnswered? = some id)
    (hf : (s.driver id).inflight = some .transfer) :
    ∃ a i r, AnswerEffect id a (s.withAgents i r s.program) t := by
  unfold State.nextAnswered? at hid
  split at hid
  · cases hid
  · rename_i j a rest hi
    split at hid
    · cases hid
    · rename_i hr
      cases hid
      rw [step_answer hi (Bool.eq_false_of_not_eq_true hr)] at h
      exact ⟨a, rest, s.transport, answer_next h⟩
  · rename_i hi
    split at hid
    · rename_i n hb hn
      cases hid
      have hdraw := expects_drawn_transfer (s := { s with transport := .drawn (n + 1) }) (Config.draw n) hf
      rw [step_transport hi hb, transportStep, hn] at h
      rcases takeDraw_cases (Config.draw n) { s with transport := .drawn (n + 1) } with ⟨f, _, _, _, ha, _⟩ | ⟨hno, _⟩
      · exact ⟨_, s.inputs, .drawn (n + 1), answer_next (ha.symm.trans h)⟩
      · exact absurd hdraw (by simp [hno _ hf])
    · cases hid

/-- What a READ of the driver `id` may emit when the driver is `d`: its Transfer, its sample, or one of its errors. -/
inductive ReadEmits (id : Nat) (d : Driver) : Output → Prop
  | transfer {h : Handle} {b0 b1 b2 : Byte} (hh : d.handle = some h) :
      ReadEmits id d (.request id (.transfer h b0 b1 b2))
  | sample (v : Sample) : ReadEmits id d (.result (some id) (.sample v))
  | error {e : Error} (he : e = .notOpen ∨ e = .transferFailed ∨ ∃ c, e = .invalidChannel c) :
      ReadEmits id d (.result (some id) (.error e))

/-- R132 from `s` to `t`: wrapper state is kept and exactly one thing is emitted. -/
structure ReadEffect (id : Nat) (s t : State) : Prop where
  wrapper : ∀ j, (t.driver j).wrapper = (s.driver j).wrapper
  emits : ∃ o, t.outputs = s.outputs ++ [o] ∧ ReadEmits id (s.driver id) o

/-- R132 speaks of the block alone, so it may be read off with other agents' turns ahead. -/
theorem ReadEffect.of_withAgents {id : Nat} {s t : State} {i : List Input} {r : Transport} {p : Program}
    (h : ReadEffect id (s.withAgents i r p) t) : ReadEffect id s t :=
  ⟨h.wrapper, h.emits⟩

/-- The call of a READ only exchanges or returns an error (R132). -/
theorem CallEffect.readEffect {s t : State} {id : Nat} {c : Int} (h : CallEffect (.read id c) s t) :
    ReadEffect id s t := by
  cases h with
  | readClosed _ _ hop _ ht =>
    cases hop; subst ht
    exact ⟨fun _ => rfl, _, rfl, .error (.inl rfl)⟩
  | badRead _ c hop _ _ _ ht =>
    cases hop; subst ht
    exact ⟨fun _ => rfl, _, rfl, .error (.inr (.inr ⟨c, rfl⟩))⟩
  | reading _ _ _ hop _ _ _ hh ht =>
    cases hop; subst ht
    exact ⟨wrapper_ask _ id _ _, _, rfl, .transfer hh⟩
  | encoded _ hop _ _ => cases hop
  | badEncode _ hop _ _ => cases hop
  | decoded _ _ _ hop _ => cases hop
  | opening _ _ hop _ _ _ _ => cases hop
  | closeClosed _ hop _ _ => cases hop
  | closing _ _ hop _ _ _ _ => cases hop

/-- The answer to a READ's exchange only returns a sample or an error (R132). -/
theorem AnswerEffect.readEffect {s t : State} {id : Nat} {a : Answer} (h : AnswerEffect id a s t)
    (hf : (s.driver id).inflight = some .transfer) : ReadEffect id s t := by
  cases h with
  | replied _ _ _ _ _ ht =>
    subst ht
    exact ⟨wrapper_complete _ id _, _, rfl, .sample _⟩
  | wrongLength _ _ _ _ ht =>
    subst ht
    exact ⟨wrapper_complete _ id _, _, rfl, .error (.inr (.inl rfl))⟩
  | transferFailed _ _ ht =>
    subst ht
    exact ⟨wrapper_complete _ id _, _, rfl, .error (.inr (.inl rfl))⟩
  | opened _ _ hg _ _ _ => cases hf.symm.trans hg
  | openFailed _ hg _ _ => cases hf.symm.trans hg
  | configured _ _ hg _ _ _ => cases hf.symm.trans hg
  | configRejected _ _ hg _ _ _ => cases hf.symm.trans hg
  | released _ _ hg _ _ => cases hf.symm.trans hg
  | closed hg _ _ => cases hf.symm.trans hg

/-- A step that issues a READ or takes the answer to its exchange keeps R132. -/
theorem step_readEffect {s t : State} {id : Nat}
    (hread : (∃ c, s.nextOp? = some (.read id c)) ∨
      (s.nextAnswered? = some id ∧ (s.driver id).inflight = some .transfer))
    (h : step s = .next t) : ReadEffect id s t := by
  rcases hread with ⟨c, hop⟩ | ⟨hid, hf⟩
  · obtain ⟨i, p, he⟩ := callEffect_of_nextOp h hop
    exact he.readEffect.of_withAgents
  · obtain ⟨a, i, r, he⟩ := answerEffect_of_nextAnswered h hid hf
    exact (he.readEffect hf).of_withAgents

/-- Settles O29: a step with a READ is the READ's call or an answer to its exchange, and each has a `ReadEffect`. -/
theorem readOnlyExchangesAndReturns : Obligations.ReadOnlyExchangesAndReturns := by
  intro s t id hread hstep
  obtain ⟨hwrapper, o, hout, hemits⟩ := step_readEffect hread hstep
  refine ⟨fun j => by simpa [Driver.wrapper] using hwrapper j, o, hout, ?_⟩
  cases hemits with
  | transfer hh => exact .inl ⟨_, _, _, _, rfl, hh⟩
  | sample v => exact .inr (.inl ⟨v, rfl, sample_toNat_le v⟩)
  | error he => exact .inr (.inr ⟨_, rfl, he⟩)

end Sys2Proof.Machine

/-! A successful OPEN from its call to its result (42_transaction.md §2): each answer of the transport takes the driver one
step further. -/

namespace Sys2Proof.Machine

/-- After a request its driver waits for the answer. -/
theorem inflight_ask (s : State) (id : Nat) (q : Request) (f : Inflight) :
    ((ask id q f s).driver id).inflight = some f := congrArg Driver.inflight (driver_ask_same ..)

/-- The inputs still to be taken are no part of a driver. -/
theorem driver_withInputs (s : State) (i : List Input) (j : Nat) : State.driver { s with inputs := i } j = s.driver j := rfl

theorem handleTaken_withInputs (s : State) (i : List Input) (id : Nat) (h : Handle) :
    State.handleTaken { s with inputs := i } id h = s.handleTaken id h := rfl

section openSteps
variable {s : State} {rest : List Input} {id : Nat} {args : ConfigArgs} {cfg : BusConfig} {h : Handle}

/-- The answer to a driver that waits is taken at once: the caller cannot move meanwhile (R48). -/
theorem step_answer_waiting {a : Answer} {f : Inflight} (hin : s.inputs = .answer id a :: rest)
    (hf : (s.driver id).inflight = some f) : step s = answer id a { s with inputs := rest } :=
  step_answer hin (not_ready_of_busy (busy_of_waiting hf))

/-- OPEN on a driver nobody has constructed and on a free path asks TOpen (R124). -/
theorem step_open_fresh (hin : s.inputs = .call (.openDriver id args) :: rest) (hd : s.driver id = Driver.fresh)
    (hp : s.pathTaken id ((fillDefaults args).bus, (fillDefaults args).device) = false) :
    step s = .next (ask id (.tOpen (fillDefaults args).bus (fillDefaults args).device) (.tOpen (fillDefaults args))
      { s with inputs := rest }) :=
  (step_call hin).trans (callOpen_free (s := { s with inputs := rest }) (congrArg Driver.life hd)
    (congrArg Driver.inflight hd) hp)

/-- TOpen's handle, when no other driver owns it, is configured next (R121, R124). -/
theorem step_opened (hin : s.inputs = .answer id (.opened h) :: rest)
    (hf : (s.driver id).inflight = some (.tOpen cfg)) (hh : s.handleTaken id h = false) :
    step s = .next (ask id (.tConfigure h cfg.mode cfg.bitsPerWord cfg.maxClockHz) (.tConfigure cfg h)
      { s with inputs := rest }) := by
  simp only [step_answer_waiting hin hf, answer, driver_withInputs, hf, answerOpen, handleTaken_withInputs, hh]

/-- The driver of an accepted configuration is Open with that configuration and its handle (R124, R172). -/
theorem step_verdict_accepted (hin : s.inputs = .answer id .verdict :: rest)
    (hf : (s.driver id).inflight = some (.tConfigure cfg h)) (hv : Config.transportAccepts cfg = true) :
    step s = .next (deliver (some id) .created (State.setDriver { s with inputs := rest } id
      { life := .opened, handle := some h, cfg := some cfg, inflight := none })) := by
  simp only [step_answer_waiting hin hf, answer, driver_withInputs, hf, answerConfigure, hv]

end openSteps

/-- Settles O19: OPEN's call, TOpen's handle and TConfigure's verdict are one step each, each leaves the driver waiting
for the next, and none writes any other driver. -/
theorem successfulOpenLeavesTheDriverOpen : Obligations.SuccessfulOpenLeavesTheDriverOpen := by
  intro s rest id args h hin hfresh hpath hfree haccepts
  refine ⟨_, calc core.run 3 s
      _ = _ := run_next 2 (step_open_fresh hin hfresh hpath)
      _ = _ := run_next 1 (step_opened rfl (inflight_ask ..) ((handleTaken_ask ..).trans hfree))
      _ = _ := run_next 0 (step_verdict_accepted rfl (inflight_ask ..) haccepts)
      _ = .next _ := run_zero _,
    (deliver_driver ..).trans (driver_setDriver_same ..), rfl, rfl, by simp, fun j hj => ?_, rfl, rfl, rfl⟩
  simp only [deliver_driver, driver_setDriver_other, driver_ask_other, driver_withInputs, hj, ne_eq, not_false_eq_true]

end Sys2Proof.Machine

/-! What one step does to the wrapper state of all drivers (10_state.md §2), said once (`WrapperChange`): only OPEN's
verdict and the end of a CLOSE write it. -/

namespace Sys2Proof.Machine

/-- What a step from `s` to `t` may do to the drivers' wrapper state: nothing, or one driver's OPEN succeeds (R172), or one
driver's CLOSE ends (R133). -/
inductive WrapperChange (s t : State) : Prop
  | kept (hw : ∀ j, (t.driver j).wrapper = (s.driver j).wrapper)
  | opened (id : Nat) (cfg : BusConfig) (h : Handle) (hi : (s.driver id).inflight = some (.tConfigure cfg h))
      (hd : t.driver id = { life := .opened, handle := some h, cfg := some cfg, inflight := none })
      (hothers : ∀ j, j ≠ id → t.driver j = s.driver j) (hout : t.outputs = s.outputs ++ [.result (some id) .created])
  | closed (id : Nat) (hi : (s.driver id).inflight = some .tClose)
      (hd : t.driver id = { s.driver id with life := .closed, handle := none, inflight := none })
      (hothers : ∀ j, j ≠ id → t.driver j = s.driver j)

/-- The change speaks of the block alone, so it may be read off with other agents' turns ahead. -/
theorem WrapperChange.of_withAgents {s t : State} {i : List Input} {r : Transport} {p : Program}
    (h : WrapperChange (s.withAgents i r p) t) : WrapperChange s t := by
  cases h with
  | kept hw => exact .kept hw
  | opened id cfg h hi hd hothers hout => exact .opened id cfg h hi hd hothers hout
  | closed id hi hd hothers => exact .closed id hi hd hothers

/-- No call writes wrapper state: an operation that changes it first waits for the transport. -/
theorem CallEffect.keeps_wrapper {op : Op} {s t : State} (h : CallEffect op s t) (j : Nat) :
    (t.driver j).wrapper = (s.driver j).wrapper := by
  cases h with
  | encoded _ _ _ ht => subst ht; rfl
  | badEncode _ _ _ ht => subst ht; rfl
  | decoded _ _ _ _ ht => subst ht; rfl
  | readClosed _ _ _ _ ht => subst ht; rfl
  | badRead _ _ _ _ _ _ ht => subst ht; rfl
  | closeClosed _ _ _ ht => subst ht; rfl
  | opening _ _ _ _ _ _ ht => subst ht; exact wrapper_ask ..
  | reading _ _ _ _ _ _ _ _ ht => subst ht; exact wrapper_ask ..
  | closing _ _ _ _ _ _ ht => subst ht; exact wrapper_ask ..

/-- Of the transport's answers an accepting verdict opens a driver and the end of CLOSE's TClose closes one. -/
theorem AnswerEffect.wrapperChange {id : Nat} {a : Answer} {s t : State} (h : AnswerEffect id a s t) :
    WrapperChange s t := by
  cases h with
  | configured cfg h hf _ _ ht =>
    subst ht
    exact .opened id cfg h hf ((deliver_driver ..).trans (driver_setDriver_same ..))
      (fun _ hj => (deliver_driver ..).trans (driver_setDriver_other _ _ _ hj)) rfl
  | closed hf _ ht =>
    subst ht
    exact .closed id hf ((deliver_driver ..).trans (driver_setDriver_same ..))
      (fun _ hj => (deliver_driver ..).trans (driver_setDriver_other _ _ _ hj))
  | opened _ _ _ _ _ ht => subst ht; exact .kept (wrapper_ask _ _ _ _)
  | configRejected _ _ _ _ _ ht => subst ht; exact .kept (wrapper_ask _ _ _ _)
  | openFailed _ _ _ ht => subst ht; exact .kept (wrapper_complete _ _ _)
  | released _ _ _ _ ht => subst ht; exact .kept (wrapper_complete _ _ _)
  | replied _ _ _ _ _ ht => subst ht; exact .kept (wrapper_complete _ _ _)
  | wrongLength _ _ _ _ ht => subst ht; exact .kept (wrapper_complete _ _ _)
  | transferFailed _ _ ht => subst ht; exact .kept (wrapper_complete _ _ _)

/-- Every step's change of wrapper state is one of the three. -/
theorem step_wrapperChange {s t : State} (h : step s = .next t) : WrapperChange s t := by
  cases step_next h with
  | call _ _ _ he => exact .kept he.keeps_wrapper
  | issue _ _ _ _ he => exact .kept he.keeps_wrapper
  | answer _ _ rest _ _ he =>
    exact WrapperChange.of_withAgents (i := rest) (r := s.transport) (p := s.program) he.wrapperChange
  | drawn n _ _ _ _ _ he =>
    exact WrapperChange.of_withAgents (i := s.inputs) (r := .drawn (n + 1)) (p := s.program) he.wrapperChange
  | noAnswer _ _ _ _ _ ht => subst ht; exact .kept fun _ => rfl
  | skip _ _ _ _ ht => subst ht; exact .kept fun _ => rfl
  | again _ _ _ _ _ ht => subst ht; exact .kept fun _ => rfl
  | forever _ _ _ _ ht => subst ht; exact .kept fun _ => rfl
  | wait _ _ ht => subst ht; exact .kept fun _ => rfl

/-- An absent driver has nothing to close (R133, R135). -/
theorem Driver.WF.not_closing_of_absent {d : Driver} (hd : d.WF) (hl : d.life = .absent) :
    d.inflight ≠ some .tClose := by
  simp only [Driver.WF, hl] at hd
  obtain ⟨-, -, -, hclose⟩ := hd
  exact hclose

/-- Settles O37: of the three changes of wrapper state only a successful OPEN takes a driver out of Absent, since a driver
whose CLOSE ends was not absent. -/
theorem driversExistOnlyAfterASuccessfulOpen : Obligations.DriversExistOnlyAfterASuccessfulOpen := by
  refine ⟨fun _ => ⟨rfl, rfl, rfl⟩, fun s t id hinv hstep habsent hleft => ?_⟩
  have hwritten : t.driver id ≠ s.driver id := fun hd => hleft ((congrArg Driver.life hd).trans habsent)
  cases step_wrapperChange hstep with
  | kept hw => exact absurd ((congrArg Prod.fst (hw id)).trans habsent) hleft
  | opened j cfg h hi hd hothers hout =>
    obtain rfl : id = j := not_imp_comm.1 (hothers id) hwritten
    exact ⟨congrArg Driver.life hd, hout, cfg, h, hi, congrArg Driver.cfg hd, congrArg Driver.handle hd⟩
  | closed j hi _ hothers =>
    obtain rfl : id = j := not_imp_comm.1 (hothers id) hwritten
    exact absurd hi ((hinv.driverWF id).not_closing_of_absent habsent)

end Sys2Proof.Machine

/-! Decoder and encoder (30_encoding.md §2, §5, §6): each gives back what the other makes, and the commands are the eight
frames of the frame map. -/

namespace Sys2Proof.Machine

/-- The bytes of a frame word are the bytes it was made of (R9). -/
theorem frameByte0_frameWord (b0 b1 b2 : Byte) : frameByte0 (frameWord b0 b1 b2) = b0 := by
  have hlow : frameWord b0 b1 b2 = b0 ++ (b1 ++ b2) := BitVec.append_assoc
  rw [frameByte0, hlow, BitVec.extractLsb'_append_eq_left]

@[inherit_doc frameByte0_frameWord]
theorem frameByte1_frameWord (b0 b1 b2 : Byte) : frameByte1 (frameWord b0 b1 b2) = b1 := by
  rw [frameByte1, frameWord, BitVec.extractLsb'_append_eq_of_le (by decide), BitVec.extractLsb'_append_eq_right]

@[inherit_doc frameByte0_frameWord]
theorem frameByte2_frameWord (b0 b1 b2 : Byte) : frameByte2 (frameWord b0 b1 b2) = b2 := by
  rw [frameByte2, frameWord, BitVec.extractLsb'_append_eq_right]

/-- The bytes of a frame word in bus order. -/
def frameBytes (F : FrameWord) : List Byte := [frameByte0 F, frameByte1 F, frameByte2 F]

theorem frameBytes_frameWord (b0 b1 b2 : Byte) : frameBytes (frameWord b0 b1 b2) = [b0, b1, b2] := by
  rw [frameBytes, frameByte0_frameWord, frameByte1_frameWord, frameByte2_frameWord]

/-- A word the frame map decodes is the encoding of the row it decodes to (R66). -/
theorem encode_of_decodeCommand {F : FrameWord} {i : Instr} (h : decodeCommand F = .instr i) :
    i.direction = .command ∧ encode i = frameBytes F := by
  unfold decodeCommand at h
  split_ifs at h <;> cases h <;> subst F <;> decide

/-- Every instruction's frame decodes to it in its direction. -/
theorem decode_encode (i : Instr) : decode i.direction (encode i) = .instr i := by
  cases i <;> rfl

/-- Every row's channel is a legal one, and a reply has none (R69, R81). -/
theorem instr_wellFormed (i : Instr) : i.WellFormed = true := by
  cases i <;> rfl

/-- Bytes that decode to an instruction are its frame and travel its way. -/
theorem encode_of_decode {d : Direction} {bytes : List Byte} {i : Instr} (h : decode d bytes = .instr i) :
    i.direction = d ∧ encode i = bytes := by
  unfold decode at h
  split at h
  · rename_i b0 b1 b2
    cases d with
    | command => exact frameBytes_frameWord b0 b1 b2 ▸ encode_of_decodeCommand h
    | reply => cases h; exact ⟨rfl, rfl⟩
  · cases h

/-- Settles O2: `decode_encode` and `encode_of_decode` are the two ways of the round trip. -/
theorem decodeAndEncodeAgree : Obligations.DecodeAndEncodeAgree :=
  ⟨fun i => ⟨instr_wellFormed i, decode_encode i⟩, fun _ _ _ => encode_of_decode⟩

/-- Every command row stands in the frame map. -/
theorem exists_row_of_command {i : Instr} (h : i.direction = .command) : ∃ r ∈ frameMap, r.1 = i := by
  cases i with
  | reply => cases h
  | _ => simp [frameMap]

/-- A row of the frame map: its channel is legal, its instruction is that channel's, its bytes are ENC's (R66, R87). -/
theorem frameMap_row : ∀ r ∈ frameMap, LegalChannel r.2.1 ∧ r.1 = commandOf r.2.1 ∧
    commandFrame (selector r.2.1) = ⟨r.2.2.1, r.2.2.2.1, r.2.2.2.2⟩ := by decide

/-- Every legal channel has its row in the frame map. -/
theorem exists_row_of_legal {c : Int} (h : LegalChannel c) : ∃ r ∈ frameMap, r.2.1 = c := by
  rcases legal_cases h with rfl | rfl | rfl | rfl | rfl | rfl | rfl | rfl <;> simp [frameMap]

/-- The frame map writes the encoder out. -/
theorem encode_row : ∀ r ∈ frameMap, r.1.direction = .command ∧ encode r.1 = [r.2.2.1, r.2.2.2.1, r.2.2.2.2] := by decide

/-- Three bytes decode as a command exactly when they are the bytes of a row (R66, R67). -/
theorem decode_command_iff_row (b0 b1 b2 : Byte) :
    (∃ i, decode .command [b0, b1, b2] = .instr i) ↔ ∃ r ∈ frameMap, r.2.2 = (b0, b1, b2) := by
  constructor
  · rintro ⟨i, hi⟩
    obtain ⟨hdir, henc⟩ := encode_of_decode hi
    obtain ⟨r, hr, rfl⟩ := exists_row_of_command hdir
    have hbytes : [r.2.2.1, r.2.2.2.1, r.2.2.2.2] = [b0, b1, b2] := (encode_row r hr).2.symm.trans henc
    exact ⟨r, hr, by simpa [Prod.ext_iff] using hbytes⟩
  · rintro ⟨r, hr, hbytes⟩
    obtain ⟨hdir, henc⟩ := encode_row r hr
    have hdec := decode_encode r.1
    rw [hdir, henc, hbytes] at hdec
    exact ⟨r.1, hdec⟩

/-- Equal frame words have equal bytes. -/
theorem frameWord_inj {b0 b1 b2 c0 c1 c2 : Byte} :
    frameWord b0 b1 b2 = frameWord c0 c1 c2 ↔ b0 = c0 ∧ b1 = c1 ∧ b2 = c2 := by
  refine ⟨fun h => ?_, fun ⟨h0, h1, h2⟩ => h0 ▸ h1 ▸ h2 ▸ rfl⟩
  have hbytes : frameBytes (frameWord b0 b1 b2) = frameBytes (frameWord c0 c1 c2) := congrArg frameBytes h
  simpa [frameBytes_frameWord] using hbytes

/-- The mask of R63 masks each byte of a frame on its own. -/
theorem frameWord_and_mask (b0 b1 b2 : Byte) :
    frameWord b0 b1 b2 &&& 0xFE3FFF#24 = frameWord (b0 &&& 0xFE#8) (b1 &&& 0x3F#8) (b2 &&& 0xFF#8) := by
  have hmask : 0xFE3FFF#24 = 0xFE#8 ++ 0x3F#8 ++ 0xFF#8 := by decide
  rw [hmask, frameWord, frameWord, BitVec.and_append, BitVec.and_append]

/-- Bytes 0 of the frame map are those with every bit but s[2] fixed (R84). -/
theorem maskedByte0 (b : Byte) : b &&& 0xFE#8 = 0x06#8 ↔ b = 0x06#8 ∨ b = 0x07#8 := by
  revert b; decide

/-- Bytes 1 of the frame map are those with the six low bits clear (R85). -/
theorem maskedByte1 (b : Byte) :
    b &&& 0x3F#8 = 0x00#8 ↔ b = 0x00#8 ∨ b = 0x40#8 ∨ b = 0x80#8 ∨ b = 0xC0#8 := by
  revert b; decide

/-- Three bytes match 0x060000 under the mask exactly when they are the bytes of a row (R63, R66). -/
theorem masked_iff_row (b0 b1 b2 : Byte) :
    frameWord b0 b1 b2 &&& 0xFE3FFF#24 = 0x060000#24 ↔ ∃ r ∈ frameMap, r.2.2 = (b0, b1, b2) := by
  have hzero : 0x060000#24 = frameWord 0x06#8 0x00#8 0x00#8 := by decide
  have hall : b2 &&& 0xFF#8 = b2 := BitVec.and_allOnes
  rw [frameWord_and_mask, hzero, frameWord_inj, maskedByte0, maskedByte1, hall]
  constructor
  · rintro ⟨rfl | rfl, rfl | rfl | rfl | rfl, rfl⟩ <;> decide
  · rintro ⟨r, hr, hbytes⟩
    have hrow : ∀ r ∈ frameMap, (r.2.2.1 = 0x06 ∨ r.2.2.1 = 0x07) ∧
      (r.2.2.2.1 = 0x00 ∨ r.2.2.2.1 = 0x40 ∨ r.2.2.2.1 = 0x80 ∨ r.2.2.2.1 = 0xC0) ∧ r.2.2.2.2 = 0x00 := by decide
    have hmasked := hrow r hr
    rwa [hbytes] at hmasked

/-- A word is decoded as a command or rejected by name (R67). -/
theorem decodeCommand_cases (F : FrameWord) :
    (∃ i, decodeCommand F = .instr i) ∨ decodeCommand F = .rejected (.notACommand F) := by
  unfold decodeCommand
  split_ifs <;> simp

/-- Settles O3: the decoder's commands and the mask's matches are the rows of the frame map, and `decodeCommand` rejects
every other word by name. -/
theorem commandCheckAcceptsExactlyTheEight : Obligations.CommandCheckAcceptsExactlyTheEight := by
  intro b0 b1 b2
  exact ⟨decode_command_iff_row b0 b1 b2, (decode_command_iff_row b0 b1 b2).trans (masked_iff_row b0 b1 b2).symm,
    (decodeCommand_cases (frameWord b0 b1 b2)).resolve_left⟩

/-! The command rows and ENC (30_encoding.md §5, 40_encoder.md §2, §3). -/

/-- A row of the frame map hands its bytes to `deliverFrame` (R66, R87). -/
theorem exec_row {r : Instr × Int × Byte × Byte × Byte} (hr : r ∈ frameMap) (s : State) :
    exec r.1 s = deliverFrame ⟨r.2.2.1, r.2.2.2.1, r.2.2.2.2⟩ s := by
  obtain ⟨hc, hi, hf⟩ := frameMap_row r hr
  rw [hi, exec_commandOf hc, hf]

/-- A frame made while the codec serves no driver is the result of the caller's ENCODE (R87). -/
theorem deliverFrame_caller {s : State} (f : CommandFrame) (hs : s.serving = none) :
    deliverFrame f s = .next (deliver none (.frame f.b0 f.b1 f.b2) s) := by
  rw [deliverFrame, hs]

/-- Settles O5: while the codec serves no driver, `deliverFrame` hands the row's bytes to the caller. -/
theorem commandRowsReturnTheirFrame : Obligations.CommandRowsReturnTheirFrame := by
  intro s hs r hr
  rw [exec_row hr, deliverFrame_caller _ hs, deliver_of_serving_none hs]

/-- Settles O6: while the codec serves a driver with a handle, `deliverFrame` asks one Transfer of the row's bytes. -/
theorem commandRowsTransferInsideARead : Obligations.CommandRowsTransferInsideARead := by
  intro s id h hs hh r hr
  rw [exec_row hr, deliverFrame_of_handle _ hs hh]
  exact ⟨_, rfl, ask_outputs .., driver_ask_same .., fun j hj => driver_ask_other _ _ _ _ hj, rfl, rfl, rfl, rfl⟩

/-- Settles O7: without a handle `deliverFrame` has nothing to ask a Transfer on. -/
theorem commandRowsStopWithoutAHandle : Obligations.CommandRowsStopWithoutAHandle := by
  intro s id hs hh r hr
  rw [exec_row hr, deliverFrame, hs]
  simp only [hh]

/-- The channel of a frame ENC makes stands in bits 16 to 14, and byte 2 and the fixed bits are as R84 to R86 say. -/
theorem encodeChannel_some {c : Int} {f : CommandFrame} (h : encodeChannel c = some f) :
    (((frameWord f.b0 f.b1 f.b2).extractLsb' 14 3).toNat : Int) + 1 = c ∧
      f.b2 = 0x00#8 ∧ f.b0.extractLsb' 1 2 = 0b11#2 ∧ f.b0.extractLsb' 3 5 = 0#5 ∧ f.b1.extractLsb' 0 6 = 0#6 := by
  have hc : LegalChannel c := by
    by_contra hc
    rw [encodeChannel_illegal hc] at h
    cases h
  rw [encodeChannel_legal hc] at h
  cases h
  rcases legal_cases hc with rfl | rfl | rfl | rfl | rfl | rfl | rfl | rfl <;> decide

/-- Settles O14: a frame holds its channel, so channels with one frame are one channel. -/
theorem framesNameTheirChannel : Obligations.FramesNameTheirChannel := by
  refine ⟨fun c c' hc hc' heq => ?_, fun c f => encodeChannel_some⟩
  have hf := encodeChannel_legal hc
  obtain ⟨hch, -⟩ := encodeChannel_some hf
  obtain ⟨hch', -⟩ := encodeChannel_some (heq.symm.trans hf)
  exact hch.symm.trans hch'

/-! DEC (41_decoder.md §2, §3). -/

/-- Settles O9: while the codec serves a driver, the sample completes that driver's READ. -/
theorem replyCompletesARead : Obligations.ReplyCompletesARead := by
  intro s id r0 r1 r2 hs
  have hexec : exec (.reply r0 r1 r2) s = .next (complete id (.sample (decodeSample r0 r1 r2)) s) := by
    rw [exec_reply, deliverSample, hs]
  exact ⟨_, _, hexec, decodeSample_toNat r0 r1 r2, complete_outputs .., driver_complete_same ..,
    fun j hj => driver_complete_other _ _ _ hj, rfl, rfl, rfl, rfl⟩

/-- The reply bytes of a value carry it (42_transaction.md §5): its high nibble in r1, its low byte in r2. -/
theorem decodeSample_of_value {V : Nat} (r0 : Byte) (hV : V ≤ 4095) :
    (decodeSample r0 (BitVec.ofNat 8 ((V >>> 8) &&& 0x0F)) (BitVec.ofNat 8 (V &&& 0xFF))).toNat = V := by
  have hlow : V &&& 0xFF = V % 2 ^ 8 := Nat.and_two_pow_sub_one_eq_mod V 8
  have hhigh (n : Nat) : n &&& 0x0F = n % 2 ^ 4 := Nat.and_two_pow_sub_one_eq_mod n 4
  rw [decodeSample_toNat, BitVec.toNat_ofNat, BitVec.toNat_ofNat, hlow, hhigh, hhigh,
    ← Nat.shiftLeft_add_eq_or_of_lt (by omega), Nat.shiftLeft_eq, Nat.shiftRight_eq_div_pow]
  omega

/-- Settles O11: a sample is the two fields side by side, so it tells them apart, and the bytes of a value carry it. -/
theorem decodeIsABijectionOnTwelveBits : Obligations.DecodeIsABijectionOnTwelveBits := by
  refine ⟨fun r0 r1 r2 r0' r1' r2' => ⟨fun h => ⟨?_, ?_⟩, fun ⟨hr1, hr2⟩ => ?_⟩, fun V r0 => decodeSample_of_value r0⟩
  · rw [← decodeSample_highBits r0 r1 r2, h, decodeSample_highBits]
  · rw [← decodeSample_lowBits r0 r1 r2, h, decodeSample_lowBits]
  · rw [decodeSample_eq_append, decodeSample_eq_append, hr1, hr2]

/-! The ports (30_encoding.md §1) and the table words. -/

/-- The port's number of a row's channel is that channel: `CH_W` = 8 bits hold it. -/
theorem toNat_port_row : ∀ r ∈ frameMap, ((BitVec.ofInt 8 r.2.1).toNat : Int) = r.2.1 := by decide

/-- Settles O15: the ports are `encodeChannel` and `decodeSample`, which the rows and REPLY also run. -/
theorem portsAreTheOperations : Obligations.PortsAreTheOperations := by
  refine ⟨fun r hr => ?_, fun x hx => ?_, fun r0 r1 r2 s hs => ?_⟩
  · obtain ⟨hc, -, hf⟩ := frameMap_row r hr
    rw [encPorts, toNat_port_row r hr, encodeChannel_legal hc, hf]
  · have hc : ¬ LegalChannel (x.toNat : Int) := by
      intro ⟨hmin, hmax⟩
      simp only [Config.chMin, Config.chMax] at hmin hmax
      omega
    rw [encPorts, encodeChannel_illegal hc]
  · exact ⟨_, rfl, decodeSample_highBits r0 r1 r2, decodeSample_lowBits r0 r1 r2, _, exec_reply_caller hs r0 r1 r2, rfl⟩

/-- Settles O1: each of the eleven words is decoded by evaluation. -/
theorem tableWordsDecodeToTheirRows : Obligations.TableWordsDecodeToTheirRows := by
  unfold Obligations.TableWordsDecodeToTheirRows
  decide

end Sys2Proof.Machine

/-! What every operation of the block leaves alone: the other agents' turns, the table's one form, and the codec's rest
between steps (10_state.md §3). -/

namespace Sys2Proof.Machine

/-- From `s` to `t` the block has worked: the inputs, the transport and the program are no part of it, and it keeps the
table's one form and the codec at rest. -/
structure BlockFrame (s t : State) : Prop where
  inputs : t.inputs = s.inputs
  transport : t.transport = s.transport
  program : t.program = s.program
  table : tableWF s.drivers → tableWF t.drivers
  idle : s.serving = none → t.serving = none

theorem CallEffect.blockFrame {op : Op} {s t : State} (h : CallEffect op s t) : BlockFrame s t := by
  cases h with
  | encoded _ _ _ ht | badEncode _ _ _ ht | decoded _ _ _ _ ht | readClosed _ _ _ _ ht | badRead _ _ _ _ _ _ ht
  | closeClosed _ _ _ ht =>
    subst ht
    exact ⟨rfl, rfl, rfl, id, fun _ => rfl⟩
  | opening _ _ _ _ _ _ ht | closing _ _ _ _ _ _ ht =>
    subst ht
    exact ⟨rfl, rfl, rfl, write_keeps_wf _ _, fun hs => hs⟩
  | reading _ _ _ _ _ _ _ _ ht =>
    subst ht
    exact ⟨rfl, rfl, rfl, write_keeps_wf _ _, fun _ => rfl⟩

theorem AnswerEffect.blockFrame {id : Nat} {a : Answer} {s t : State} (h : AnswerEffect id a s t) : BlockFrame s t := by
  cases h with
  | opened _ _ _ _ _ ht | configRejected _ _ _ _ _ ht =>
    subst ht
    exact ⟨rfl, rfl, rfl, write_keeps_wf _ _, fun hs => hs⟩
  | openFailed _ _ _ ht | released _ _ _ _ ht | replied _ _ _ _ _ ht | wrongLength _ _ _ _ ht | transferFailed _ _ ht =>
    subst ht
    exact ⟨rfl, rfl, rfl, write_keeps_wf _ _, fun _ => rfl⟩
  | configured _ _ _ _ _ ht | closed _ _ ht =>
    subst ht
    refine ⟨rfl, rfl, rfl, fun hwf => ?_, fun _ => rfl⟩
    rw [deliver_drivers, setDriver_drivers]
    exact write_keeps_wf _ _ hwf

/-- A step keeps the table's one form and leaves the codec serving nobody. -/
theorem step_keeps_table_idle {s t : State} (h : step s = .next t) (htable : tableWF s.drivers)
    (hidle : s.serving = none) : tableWF t.drivers ∧ t.serving = none := by
  cases step_next h with
  | call _ _ _ he | issue _ _ _ _ he => exact ⟨he.blockFrame.table htable, he.blockFrame.idle hidle⟩
  | answer _ _ _ _ _ he | drawn _ _ _ _ _ _ he => exact ⟨he.blockFrame.table htable, he.blockFrame.idle hidle⟩
  | noAnswer _ _ _ _ _ ht | skip _ _ _ _ ht | again _ _ _ _ _ ht | forever _ _ _ _ ht | wait _ _ ht =>
    subst ht
    exact ⟨htable, hidle⟩

/-! Traffic on the bus (42_transaction.md §3): only READ puts a frame there. -/

@[simp] theorem busFrames_result (out : List Output) (who : Option Nat) (r : Result) :
    busFrames (out ++ [.result who r]) = busFrames out := by simp [busFrames]

@[simp] theorem busFrames_tOpen (out : List Output) (id b d : Nat) :
    busFrames (out ++ [.request id (.tOpen b d)]) = busFrames out := by simp [busFrames]

@[simp] theorem busFrames_tConfigure (out : List Output) (id m b c : Nat) (h : Handle) :
    busFrames (out ++ [.request id (.tConfigure h m b c)]) = busFrames out := by simp [busFrames]

@[simp] theorem busFrames_tClose (out : List Output) (id : Nat) (h : Handle) :
    busFrames (out ++ [.request id (.tClose h)]) = busFrames out := by simp [busFrames]

@[simp] theorem busFrames_transfer (out : List Output) (id : Nat) (h : Handle) (b0 b1 b2 : Byte) :
    busFrames (out ++ [.request id (.transfer h b0 b1 b2)]) = busFrames out ++ [frameWord b0 b1 b2] := by
  simp [busFrames]

/-- From `s` to `t` the operation `op` puts a frame on the bus: it is a READ of a legal channel on an open idle driver, the
frame is that channel's, and the driver waits. -/
def SendsFrame (op : Op) (s t : State) : Prop :=
  ∃ id, ∃ r ∈ frameMap, op = .read id r.2.1 ∧ (s.driver id).life = .opened ∧ (s.driver id).inflight = none ∧
    (t.driver id).inflight = some .transfer ∧
    busFrames t.outputs = busFrames s.outputs ++ [frameWord r.2.2.1 r.2.2.2.1 r.2.2.2.2]

theorem CallEffect.bus {op : Op} {s t : State} (h : CallEffect op s t) :
    busFrames t.outputs = busFrames s.outputs ∨ SendsFrame op s t := by
  cases h with
  | encoded _ _ _ ht | badEncode _ _ _ ht | decoded _ _ _ _ ht | readClosed _ _ _ _ ht | badRead _ _ _ _ _ _ ht
  | closeClosed _ _ _ ht => subst ht; exact .inl (busFrames_result ..)
  | opening _ _ _ _ _ _ ht => subst ht; exact .inl (busFrames_tOpen ..)
  | closing _ _ _ _ _ _ ht => subst ht; exact .inl (busFrames_tClose ..)
  | reading id c h hop hl hi hc hh ht =>
    subst hop ht
    obtain ⟨r, hr, rfl⟩ := exists_row_of_legal hc
    obtain ⟨-, -, hf⟩ := frameMap_row r hr
    exact .inr ⟨id, r, hr, rfl, hl, hi, inflight_ask .., by rw [hf]; exact busFrames_transfer ..⟩

theorem AnswerEffect.bus {id : Nat} {a : Answer} {s t : State} (h : AnswerEffect id a s t) :
    busFrames t.outputs = busFrames s.outputs := by
  cases h with
  | opened _ _ _ _ _ ht => subst ht; exact busFrames_tConfigure ..
  | configRejected _ _ _ _ _ ht => subst ht; exact busFrames_tClose ..
  | openFailed _ _ _ ht | released _ _ _ _ ht | replied _ _ _ _ _ ht | wrongLength _ _ _ _ ht | transferFailed _ _ ht
  | configured _ _ _ _ _ ht | closed _ _ ht => subst ht; exact busFrames_result ..

/-- The operation of a call at the head of the inputs is the one the step issues. -/
theorem nextOp_of_call {s : State} {op : Op} {rest : List Input} (hi : s.inputs = .call op :: rest) :
    s.nextOp? = some op := by
  rw [State.nextOp?, hi]

/-- In the caller's turn the next operation of its program is the one the step issues. -/
theorem nextOp_of_issue {s : State} {op : Op} {rest : Program} (hc : s.CallerTurn) (hp : s.program = .op op rest) :
    s.nextOp? = some op := by
  obtain ⟨hi | ⟨id, a, more, hi⟩, hb⟩ := hc
  · simp only [State.nextOp?, hi, hb, hp]
  · simp only [State.nextOp?, hi, hb, hp]

/-- A step leaves the bus as it is, or the operation it issues sends its frame. -/
theorem step_bus {s t : State} (h : step s = .next t) :
    busFrames t.outputs = busFrames s.outputs ∨ ∃ op, s.nextOp? = some op ∧ SendsFrame op s t := by
  cases step_next h with
  | call op _ hi he => exact he.bus.imp_right fun hsend => ⟨op, nextOp_of_call hi, hsend⟩
  | issue op _ hc hp he => exact he.bus.imp_right fun hsend => ⟨op, nextOp_of_issue hc hp, hsend⟩
  | answer _ _ _ _ _ he | drawn _ _ _ _ _ _ he => exact .inl he.bus
  | noAnswer _ _ _ _ _ ht | skip _ _ _ _ ht | again _ _ _ _ _ ht | forever _ _ _ _ ht | wait _ _ ht =>
    subst ht
    exact .inl rfl

/-- Settles O42: of all a step can do only the READ of `SendsFrame` adds a frame. -/
theorem onlyReadsReachTheBus : Obligations.OnlyReadsReachTheBus := by
  intro s t hstep
  refine (step_bus hstep).imp_right ?_
  rintro ⟨_, hop, id, r, hr, rfl, hl, hi, hwait, hbus⟩
  exact ⟨id, r, hr, hop, hl, hi, hwait, hbus⟩

/-- Every row's frame is a command of this block (R67). -/
theorem isCommand_row : ∀ r ∈ frameMap, FrameWord.isCommand (frameWord r.2.2.1 r.2.2.2.1 r.2.2.2.2) = true := by decide

/-- A step puts only commands of this block on the bus (R63, R67). -/
theorem step_keeps_bus {s t : State} (h : step s = .next t)
    (hbus : ∀ F ∈ busFrames s.outputs, FrameWord.isCommand F = true) :
    ∀ F ∈ busFrames t.outputs, FrameWord.isCommand F = true := by
  rcases step_bus h with heq | ⟨_, _, _, r, hr, _, _, _, _, hsent⟩
  · rwa [heq]
  · intro F hF
    rw [hsent, List.mem_append, List.mem_singleton] at hF
    rcases hF with hF | rfl
    · exact hbus F hF
    · exact isCommand_row r hr

/-! The invariant (10_state.md §2 and §3): every move of a driver keeps its fields fitting together and takes no path
another driver holds. -/

theorem Driver.wf_absent {d : Driver} (hl : d.life = .absent) :
    d.WF ↔ d.handle = none ∧ d.cfg = none ∧ d.inflight ≠ some .transfer ∧ d.inflight ≠ some .tClose := by
  simp only [Driver.WF, hl]

theorem Driver.wf_opened {d : Driver} (hl : d.life = .opened) :
    d.WF ↔ d.handle.isSome ∧ d.cfg.isSome ∧
      (d.inflight = none ∨ d.inflight = some .transfer ∨ d.inflight = some .tClose) := by
  simp only [Driver.WF, hl]

theorem Driver.wf_closed {d : Driver} (hl : d.life = .closed) :
    d.WF ↔ d.handle = none ∧ d.cfg.isSome ∧ d.inflight = none := by
  simp only [Driver.WF, hl]

/-- The requests of an OPEN in progress: those that belong to an absent driver (R124). -/
def Inflight.ofOpen : Inflight → Bool
  | .tOpen _ | .tConfigure _ _ | .tRelease _ _ => true
  | .transfer | .tClose => false

/-- A driver that waits is absent while its OPEN is in progress and open otherwise (R124, R127, R133). -/
theorem Driver.WF.life_of_waiting {d : Driver} {f : Inflight} (hd : d.WF) (hi : d.inflight = some f) :
    d.life = if f.ofOpen then .absent else .opened := by
  cases hl : d.life with
  | absent =>
    obtain ⟨-, -, ht, hc⟩ := (wf_absent hl).1 hd
    cases f with
    | transfer => exact absurd hi ht
    | tClose => exact absurd hi hc
    | tOpen _ | tConfigure _ _ | tRelease _ _ => rfl
  | opened =>
    obtain ⟨-, -, hf | hf | hf⟩ := (wf_opened hl).1 hd <;> cases hi.symm.trans hf <;> rfl
  | closed => cases (hd.inflight_of_closed hl).symm.trans hi

/-- A move keeps a driver's fields fitting together (10_state.md §2). -/
theorem DriverMove.keeps_wf {p : Nat × Nat → Bool} {taken : Handle → Bool} {d d' : Driver}
    (hm : DriverMove p taken d d') (hwf : d.WF) : d'.WF := by
  cases hm with
  | kept hd => exact hd ▸ hwf
  | openAsked _ hl _ _ hd =>
    obtain ⟨hh, hc, -, -⟩ := (Driver.wf_absent hl).1 hwf
    subst hd
    exact Iff.mpr (Driver.wf_absent hl) ⟨hh, hc, nofun, nofun⟩
  | transferAsked _ hl _ _ hd =>
    obtain ⟨hh, hc, -⟩ := (Driver.wf_opened hl).1 hwf
    subst hd
    exact Iff.mpr (Driver.wf_opened hl) ⟨hh, hc, .inr (.inl rfl)⟩
  | closeAsked _ hl _ _ hd =>
    obtain ⟨hh, hc, -⟩ := (Driver.wf_opened hl).1 hwf
    subst hd
    exact Iff.mpr (Driver.wf_opened hl) ⟨hh, hc, .inr (.inr rfl)⟩
  | handleBrought _ _ hi _ hd | openFailed _ hi hd | releaseAsked _ _ hi hd | released _ _ hi hd =>
    have hl : d.life = .absent := hwf.life_of_waiting hi
    obtain ⟨hh, hc, -, -⟩ := (Driver.wf_absent hl).1 hwf
    subst hd
    exact Iff.mpr (Driver.wf_absent hl) ⟨hh, hc, nofun, nofun⟩
  | opened _ _ _ hd =>
    subst hd
    exact Iff.mpr (Driver.wf_opened rfl) ⟨rfl, rfl, .inl rfl⟩
  | transferred hi hd =>
    have hl : d.life = .opened := hwf.life_of_waiting hi
    obtain ⟨hh, hc, -⟩ := (Driver.wf_opened hl).1 hwf
    subst hd
    exact Iff.mpr (Driver.wf_opened hl) ⟨hh, hc, .inl rfl⟩
  | closed hi hd =>
    have hl : d.life = .opened := hwf.life_of_waiting hi
    obtain ⟨-, hc, -⟩ := (Driver.wf_opened hl).1 hwf
    subst hd
    exact Iff.mpr (Driver.wf_closed rfl) ⟨rfl, hc, rfl⟩

/-- A move brings a driver no path but one that no other driver holds (R161). -/
theorem DriverMove.path_or_free {taken : Nat × Nat → Bool} {th : Handle → Bool} {d d' : Driver} {p : Nat × Nat}
    (hm : DriverMove taken th d d') (hwf : d.WF) (hp : d'.path? = some p) : d.path? = some p ∨ taken p = false := by
  cases hm with
  | kept hd => exact .inl (hd ▸ hp)
  | openAsked _ _ _ hfree hd =>
    obtain rfl : _ = p := by simpa [Driver.path?, hd] using hp
    exact .inr hfree
  | transferAsked _ _ hi _ hd | closeAsked _ _ hi _ hd => exact .inl (by simpa [Driver.path?, hd, hi] using hp)
  | handleBrought _ _ hi _ hd => exact .inl (by simpa [Driver.path?, hd, hi] using hp)
  | opened _ _ hi hd | releaseAsked _ _ hi hd => exact .inl (by simpa [Driver.path?, hd, hi] using hp)
  | transferred hi hd => exact .inl (by simpa [Driver.path?, hd, hi] using hp)
  | openFailed _ hi hd | released _ _ hi hd =>
    have hl : d.life = .absent := hwf.life_of_waiting hi
    simp [Driver.path?, hd, hl] at hp
  | closed _ hd => simp [Driver.path?, hd] at hp

/-- The driver that moves comes to hold no path of another driver. -/
theorem MovesOnly.path_not_shared {id j : Nat} {s t : State} {p : Nat × Nat} (hm : MovesOnly id s t) (hinv : s.Inv)
    (hi : (t.driver id).path? = some p) (hj : (t.driver j).path? = some p) : j = id := by
  by_contra hne
  obtain ⟨hothers, hmove⟩ := hm
  rw [hothers j hne] at hj
  rcases hmove.path_or_free (hinv.driverWF id) hi with hold | hfree
  · exact hne (hinv.paths j id p hj hold)
  · exact Bool.false_ne_true (hfree.symm.trans (pathTaken_of_holder hne hj))

/-- Every step keeps the drivers on different paths (R161). -/
theorem step_keeps_paths {s t : State} (hinv : s.Inv) (h : step s = .next t) (i j : Nat) (p : Nat × Nat)
    (hi : (t.driver i).path? = some p) (hj : (t.driver j).path? = some p) : i = j := by
  obtain ⟨id, hm⟩ := exists_movesOnly_of_step h
  have hothers := hm.1
  by_cases hid : i = id
  · subst hid; exact (hm.path_not_shared hinv hi hj).symm
  · by_cases hjd : j = id
    · subst hjd; exact hm.path_not_shared hinv hj hi
    · rw [hothers i hid] at hi
      rw [hothers j hjd] at hj
      exact hinv.paths i j p hi hj

/-- Every step keeps every driver's fields fitting together. -/
theorem step_keeps_driverWF {s t : State} (h : step s = .next t) (hwf : ∀ id, (s.driver id).WF) (j : Nat) :
    (t.driver j).WF := by
  obtain ⟨id, hothers, hmove⟩ := exists_movesOnly_of_step h
  by_cases hj : j = id
  · subst hj; exact hmove.keeps_wf (hwf j)
  · rw [hothers j hj]; exact hwf j

/-- Settles O36: a step moves at most one driver, and the move keeps that driver's fields fitting together and takes no
path and no handle of another; the table, the codec and the bus are kept by what every operation leaves alone. -/
theorem stepKeepsTheInvariant : Obligations.StepKeepsTheInvariant := by
  intro s t hinv hstep
  obtain ⟨htable, hidle⟩ := step_keeps_table_idle hstep hinv.table hinv.idle
  exact {
    table := htable
    driverWF := step_keeps_driverWF hstep hinv.driverWF
    paths := step_keeps_paths hinv hstep
    handles := step_keeps_handles hinv hstep
    idle := hidle
    bus := step_keeps_bus hstep hinv.bus }

/-- Settles O35: at reset the table is empty, so every driver is fresh and holds nothing, and no frame is on the bus. -/
theorem resetMeetsTheInvariant : Obligations.ResetMeetsTheInvariant where
  table := ⟨List.Pairwise.nil, nofun⟩
  driverWF _ := (Driver.wf_absent rfl).2 ⟨rfl, rfl, nofun, nofun⟩
  paths _ _ _ := nofun
  handles _ _ _ := nofun
  idle := rfl
  bus := nofun

/-- Settles O38: of the changes of wrapper state, an OPEN that succeeds was in progress on an absent driver and a CLOSE
that ends on an open one. -/
theorem lifecycleTransitions : Obligations.LifecycleTransitions := by
  intro s t id hinv hstep
  cases step_wrapperChange hstep with
  | kept hw => exact .inl (congrArg Prod.fst (hw id))
  | opened j _ _ hi hd hothers =>
    by_cases hj : id = j
    · subst hj; exact .inr (.inl ⟨(hinv.driverWF id).life_of_waiting hi, congrArg Driver.life hd⟩)
    · exact .inl (congrArg Driver.life (hothers id hj))
  | closed j hi hd hothers =>
    by_cases hj : id = j
    · subst hj; exact .inr (.inr ⟨(hinv.driverWF id).life_of_waiting hi, congrArg Driver.life hd⟩)
    · exact .inl (congrArg Driver.life (hothers id hj))

/-- A closed driver has no handle (R25). -/
theorem Driver.WF.handle_of_closed {d : Driver} (hd : d.WF) (hl : d.life = .closed) : d.handle = none :=
  ((wf_closed hl).1 hd).1

/-- Settles O39: only an OPEN on an absent driver writes a configuration, and only a CLOSE takes the handle of a driver
that exists. -/
theorem configurationIsWrittenOnce : Obligations.ConfigurationIsWrittenOnce := by
  intro s t id hinv hstep hexists
  suffices hkept : (t.driver id).cfg = (s.driver id).cfg ∧
      ((t.driver id).life = .opened → (t.driver id).handle = (s.driver id).handle) from
    ⟨hkept.1, hkept.2, (step_keeps_driverWF hstep hinv.driverWF id).handle_of_closed⟩
  cases step_wrapperChange hstep with
  | kept hw =>
    have hwrapper := hw id
    simp only [Driver.wrapper, Prod.mk.injEq] at hwrapper
    obtain ⟨-, hhandle, hcfg⟩ := hwrapper
    exact ⟨hcfg, fun _ => hhandle⟩
  | opened j _ _ hi _ hothers =>
    have hj : id ≠ j := by rintro rfl; exact hexists ((hinv.driverWF id).life_of_waiting hi)
    rw [hothers id hj]
    exact ⟨rfl, fun _ => rfl⟩
  | closed j _ hd hothers =>
    by_cases hj : id = j
    · subst hj; rw [hd]; exact ⟨rfl, nofun⟩
    · rw [hothers id hj]; exact ⟨rfl, fun _ => rfl⟩

/-- The drivers are the table. -/
theorem driver_of_drivers_eq {s t : State} (h : t.drivers = s.drivers) (j : Nat) : t.driver j = s.driver j := by
  rw [State.driver, h, State.driver]

/-- A call leaves every driver it is not issued on. -/
theorem CallEffect.keeps_untargeted {op : Op} {s t : State} {j : Nat} (h : CallEffect op s t)
    (hj : op.target? ≠ some j) : t.driver j = s.driver j := by
  rcases h.moves with hd | ⟨id, htarget, hothers, -⟩
  · exact driver_of_drivers_eq hd j
  · exact hothers j fun heq => hj (heq ▸ htarget)

/-- Settles O40: a call moves only the driver it is issued on and an answer only the driver it is for. -/
theorem driversAreIndependent : Obligations.DriversAreIndependent := by
  intro s t j hstep hop hanswered
  cases step_next hstep with
  | call op _ hi he => exact he.keeps_untargeted (hop op (nextOp_of_call hi))
  | issue op _ hc hp he => exact he.keeps_untargeted (hop op (nextOp_of_issue hc hp))
  | answer id a _ hi hr he =>
    have hj : s.nextAnswered? = some id := by simp only [State.nextAnswered?, hi, hr]; rfl
    exact he.moves.1 j fun h => hanswered (h ▸ hj)
  | drawn n _ hi hb hn _ he =>
    have hj : s.nextAnswered? = some (Config.draw n).driver := by simp only [State.nextAnswered?, hi, hb, hn]
    exact he.moves.1 j fun h => hanswered (h ▸ hj)
  | noAnswer _ _ _ _ _ ht | skip _ _ _ _ ht | again _ _ _ _ _ ht | forever _ _ _ _ ht | wait _ _ ht =>
    subst ht
    rfl

end Sys2Proof.Machine

/-! Errors (60_exceptions.md §4): whichever operation ends in one, wrapper state is kept. -/

namespace Sys2Proof.Machine

/-- What an error handed to `who` leaves: the codec at rest, all wrapper state, every driver but the one whose operation
ends, and that one waiting on nothing or as it was (R155). -/
structure ErrorEffect (who : Option Nat) (s t : State) : Prop where
  idle : t.serving = none
  wrapper : ∀ j, (t.driver j).wrapper = (s.driver j).wrapper
  others : ∀ j, some j ≠ who → t.driver j = s.driver j
  ended : ∀ j, some j = who → (t.driver j).inflight = none ∨ (t.driver j).inflight = (s.driver j).inflight

/-- An operation that completes on a driver has the effect an error may have. -/
theorem errorEffect_complete (id : Nat) (r : Result) (s : State) : ErrorEffect (some id) s (complete id r s) where
  idle := rfl
  wrapper := wrapper_complete s id r
  others j hj := driver_complete_other s id r fun h => hj (congrArg some h)
  ended j hj := by
    cases hj
    exact .inl (congrArg Driver.inflight (driver_complete_same ..))

/-- A call that ends in an error writes no driver. -/
theorem CallEffect.errorEffect {op : Op} {s t : State} {who : Option Nat} {e : Error} (h : CallEffect op s t)
    (hout : t.outputs = s.outputs ++ [.result who (.error e)]) : ErrorEffect who s t := by
  cases h with
  | encoded _ _ _ ht | badEncode _ _ _ ht | decoded _ _ _ _ ht | readClosed _ _ _ _ ht | badRead _ _ _ _ _ _ ht
  | closeClosed _ _ _ ht =>
    subst ht
    exact ⟨rfl, fun _ => rfl, fun _ _ => rfl, fun _ _ => .inr rfl⟩
  | opening _ _ _ _ _ _ ht | reading _ _ _ _ _ _ _ _ ht | closing _ _ _ _ _ _ ht =>
    subst ht
    simp at hout

/-- An answer that ends an operation in an error completes it. -/
theorem AnswerEffect.errorEffect {id : Nat} {a : Answer} {s t : State} {who : Option Nat} {e : Error}
    (h : AnswerEffect id a s t) (hout : t.outputs = s.outputs ++ [.result who (.error e)]) : ErrorEffect who s t := by
  cases h with
  | openFailed _ _ _ ht | released _ _ _ _ ht | wrongLength _ _ _ _ ht | transferFailed _ _ ht =>
    subst ht
    obtain ⟨rfl, -⟩ : some id = who ∧ _ = e := by simpa using hout
    exact errorEffect_complete id _ s
  | opened _ _ _ _ _ ht | configured _ _ _ _ _ ht | configRejected _ _ _ _ _ ht | replied _ _ _ _ _ ht
  | closed _ _ ht =>
    subst ht
    simp at hout

/-- The effect speaks of the block alone, so it may be read off with other agents' turns ahead. -/
theorem ErrorEffect.of_withAgents {who : Option Nat} {s t : State} {i : List Input} {r : Transport} {p : Program}
    (h : ErrorEffect who (s.withAgents i r p) t) : ErrorEffect who s t :=
  ⟨h.idle, h.wrapper, h.others, h.ended⟩

/-- A step that hands out an error has its effect. -/
theorem step_errorEffect {s t : State} {who : Option Nat} {e : Error} (h : step s = .next t)
    (hout : t.outputs = s.outputs ++ [.result who (.error e)]) : ErrorEffect who s t := by
  cases step_next h with
  | call _ rest _ he => exact (he.errorEffect hout).of_withAgents (i := rest) (r := s.transport) (p := s.program)
  | issue _ rest _ _ he => exact (he.errorEffect hout).of_withAgents (i := s.inputs) (r := s.transport) (p := rest)
  | answer _ _ rest _ _ he => exact (he.errorEffect hout).of_withAgents (i := rest) (r := s.transport) (p := s.program)
  | drawn n _ _ _ _ _ he =>
    exact (he.errorEffect hout).of_withAgents (i := s.inputs) (r := .drawn (n + 1)) (p := s.program)
  | noAnswer _ _ _ _ _ ht | skip _ _ _ _ ht | again _ _ _ _ _ ht | forever _ _ _ _ ht | wait _ _ ht =>
    subst ht
    simp at hout

/-- Settles O33: a step that hands out an error was a call that wrote no driver or an answer that completed an
operation. -/
theorem errorsChangeNoWrapperState : Obligations.ErrorsChangeNoWrapperState := by
  intro s t who e hstep hout
  obtain ⟨hidle, hwrapper, hothers, hended⟩ := step_errorEffect hstep hout
  refine ⟨hidle, fun j => ?_⟩
  have hj := hwrapper j
  simp only [Driver.wrapper, Prod.mk.injEq] at hj
  obtain ⟨hlife, hhandle, hcfg⟩ := hj
  exact ⟨hlife, hhandle, hcfg, hothers j, hended j⟩

/-! Whose answers are taken, and what stops the machine (42_transaction.md §1, 70_reset_and_hazards.md §1). -/

/-- Only TOpen's handle may be one that another driver owns. -/
theorem bringsTaken_eq_false_iff (s : State) (id : Nat) (a : Answer) :
    s.bringsTaken id a = false ↔ ∀ h, a = .opened h → s.handleTaken id h = false := by
  cases a <;> simp [State.bringsTaken]

/-- The transport may give the answers of the kind the driver waits for that bring no handle of another driver. -/
theorem expects_iff (s : State) (id : Nat) (a : Answer) :
    s.expects id a = true ↔ (∃ f, (s.driver id).inflight = some f ∧ f.expects a = true) ∧
      ∀ h, a = .opened h → s.handleTaken id h = false := by
  rw [← bringsTaken_eq_false_iff, State.expects]
  cases (s.driver id).inflight <;> simp

/-- The inputs still to be taken are no part of the transport's contract. -/
theorem expects_withInputs (s : State) (i : List Input) (id : Nat) (a : Answer) :
    State.expects { s with inputs := i } id a = s.expects id a := rfl

/-- With nothing in flight no driver waits. -/
theorem inflight_of_idle {s : State} (hb : s.busy = false) (id : Nat) : (s.driver id).inflight = none := by
  cases hf : (s.driver id).inflight with
  | none => rfl
  | some f => exact absurd (busy_of_waiting hf) (Bool.eq_false_iff.1 hb)

/-- The caller's turn takes no answer that stands in the inputs. -/
theorem inputs_of_callerReady {s t : State} {id : Nat} {a : Answer} {rest : List Input}
    (hin : s.inputs = .answer id a :: rest) (hr : s.callerReady = true) (h : step s = .next t) :
    t.inputs = s.inputs := by
  cases step_next h with
  | issue _ _ _ _ he => exact he.blockFrame.inputs
  | skip _ _ _ _ ht | again _ _ _ _ _ ht | forever _ _ _ _ ht | wait _ _ ht => subst ht; rfl
  | call _ _ hi _ => cases hin.symm.trans hi
  | answer _ _ _ _ hn _ => cases hr.symm.trans hn
  | drawn _ _ hi _ _ _ _ | noAnswer _ hi _ _ _ _ => cases hin.symm.trans hi

/-- Settles O43: when the caller cannot move the step is `answer`, which goes on exactly on the answers the state expects;
when it can, nothing is in flight and the step is the caller's. -/
theorem answersAreTakenExactlyWhenAsked : Obligations.AnswersAreTakenExactlyWhenAsked := by
  intro s rest id a hin
  refine ⟨fun hr => ?_, fun hr => ?_⟩
  · rw [step_answer hin hr, ← expects_iff, ← expects_withInputs s rest]
    rcases answer_cases id a { s with inputs := rest } with ⟨he, t, ht⟩ | ⟨he, f, hf, _⟩
    · exact ⟨⟨fun _ => he, fun _ => ⟨t, ht, (answer_next ht).blockFrame.inputs⟩⟩, fun hno => absurd he hno⟩
    · simp [he, hf]
  · obtain ⟨hb, hd⟩ := ready_iff.1 hr
    exact ⟨inflight_of_idle hb id, step_caller ⟨.inr ⟨id, a, rest, hin⟩, hb⟩ hd,
      fun t ht => inputs_of_callerReady hin hr ht⟩

/-- Inside the READ of an open driver ENCODE reads a handle that has a value. -/
theorem encodeFor_ne_fault {s : State} {id : Nat} {h : Handle} (c : Int) (hh : (s.driver id).handle = some h)
    (f : Fault) : encodeFor (some id) c s ≠ .fault f := by
  by_cases hc : LegalChannel c
  · rw [encodeFor_legal hc, deliverFrame_of_handle (s := { s with serving := some id }) _ rfl hh]
    nofun
  · rw [encodeFor_illegal hc]
    nofun

/-- While every driver's fields fit together no call faults: an open driver has a handle (R173). -/
theorem call_ne_fault {s : State} (hwf : ∀ id, (s.driver id).WF) (op : Op) (f : Fault) : call op s ≠ .fault f := by
  have hhandle {id : Nat} (hl : (s.driver id).life = .opened) : ∃ h, (s.driver id).handle = some h :=
    Option.isSome_iff_exists.1 ((Driver.wf_opened hl).1 (hwf id)).1
  cases op with
  | encode c => rw [call, encodeFor_caller]; nofun
  | decode r0 r1 r2 => nofun
  | openDriver id args =>
    simp only [call, callOpen]
    split
    · nofun
    · nofun
    · split
      · nofun
      · split <;> nofun
  | read id c =>
    simp only [call, callRead]
    split
    · nofun
    · split <;> nofun
    · rename_i hl
      split
      · nofun
      · obtain ⟨h, hh⟩ := hhandle hl
        exact encodeFor_ne_fault c hh f
  | close id =>
    simp only [call, callClose]
    split
    · nofun
    · split <;> nofun
    · rename_i hl
      obtain ⟨h, hh⟩ := hhandle hl
      rw [hh]
      split <;> nofun

/-- Nor does the caller's turn. -/
theorem callerStep_ne_fault {s : State} (hwf : ∀ id, (s.driver id).WF) (f : Fault) : callerStep s ≠ .fault f := by
  unfold callerStep
  split
  case h_2 o rest _ => exact call_ne_fault (s := { s with program := rest }) hwf o f
  all_goals nofun

/-- No draw stops the machine. -/
theorem transportStep_ne_fault (s : State) (f : Fault) : transportStep s ≠ .fault f := by
  unfold transportStep
  split
  · nofun
  · rename_i n _
    rcases takeDraw_cases (Config.draw n) { s with transport := .drawn (n + 1) } with ⟨_, t, _, _, _, ht⟩ | ⟨_, ht⟩ <;>
      rw [ht] <;> nofun

/-- Settles O44: calls, the caller's turn and draws never fault, and `AnswerStops` says why an answer does. -/
theorem onlyBadAnswersFault : Obligations.OnlyBadAnswersFault := by
  intro s f hinv hstep
  unfold step at hstep
  split at hstep
  · rename_i op rest _
    exact absurd hstep (call_ne_fault (s := { s with inputs := rest }) hinv.driverWF op f)
  · rename_i id a rest hin
    unfold answerStep at hstep
    split at hstep
    · exact absurd hstep (callerStep_ne_fault hinv.driverWF f)
    · rename_i hr
      refine ⟨id, a, rest, hin, hr, ?_⟩
      rcases answer_cases id a { s with inputs := rest } with ⟨_, t, ht⟩ | ⟨_, g, hg, hstops⟩
      · cases ht.symm.trans hstep
      · cases hg.symm.trans hstep
        cases hstops with
        | unsolicited hf => exact .inl ⟨rfl, hf⟩
        | mismatch g hf he => exact .inr (.inl ⟨rfl, g, hf, he⟩)
        | shared cfg h hf ha ht =>
          obtain ⟨j, hj, hheld⟩ := holder_of_handleTaken hinv.table ht
          exact .inr (.inr ⟨rfl, cfg, h, j, hf, ha, hj, hheld⟩)
  · unfold quietStep at hstep
    split at hstep
    · exact absurd hstep (transportStep_ne_fault s f)
    · exact absurd hstep (callerStep_ne_fault hinv.driverWF f)

/-! The transport's free draws (log 14). -/

/-- A draw leaves the inputs, the transport and the program to their agents. -/
theorem takeDraw_agents (d : Config.Draw) (s : State) :
    ∃ t, takeDraw d s = .next t ∧ t.inputs = s.inputs ∧ t.transport = s.transport ∧ t.program = s.program := by
  rcases takeDraw_cases d s with ⟨f, t, _, _, ha, ht⟩ | ⟨_, ht⟩
  · have hframe := (answer_next (ha.symm.trans ht)).blockFrame
    exact ⟨t, ht, hframe.inputs, hframe.transport, hframe.program⟩
  · exact ⟨s, ht, rfl, rfl, rfl⟩

/-- A draw that brings no handle of another driver does what its answer would do if given. -/
theorem takeDraw_eq_step {d : Config.Draw} {s : State} {f : Inflight} (hf : (s.driver d.driver).inflight = some f)
    (hfree : ∀ h, drawnAnswer d f = .opened h → s.handleTaken d.driver h = false) :
    takeDraw d s = step { s with inputs := .answer d.driver (drawnAnswer d f) :: s.inputs } := by
  have he : s.expects d.driver (drawnAnswer d f) = true :=
    (expects_iff ..).2 ⟨⟨f, hf, drawnAnswer_expected d f⟩, hfree⟩
  rw [step_answer_waiting (s := { s with inputs := .answer d.driver (drawnAnswer d f) :: s.inputs }) rfl hf]
  simp only [takeDraw, hf, he]

/-- A draw for a driver that does not wait, or with a handle of another driver, is no answer. -/
theorem takeDraw_none {d : Config.Draw} {s : State} (h : (s.driver d.driver).inflight = none ∨
    ∃ f h, (s.driver d.driver).inflight = some f ∧ drawnAnswer d f = .opened h ∧ s.handleTaken d.driver h = true) :
    takeDraw d s = .next s := by
  rcases h with hf | ⟨f, h, hf, ha, hh⟩
  · simp only [takeDraw, hf]
  · have he : s.expects d.driver (drawnAnswer d f) = false := by
      simp [State.expects, hf, ha, State.bringsTaken, hh]
    simp only [takeDraw, hf, he]

/-- Settles O49: the three clauses of a draw, and that with no input left a waiting operation leaves the turn to it. -/
theorem drawnAnswersKeepTheContract : Obligations.DrawnAnswersKeepTheContract := by
  refine ⟨fun d s => ⟨takeDraw_agents d s, fun f hf => ⟨drawnAnswer_expected d f, takeDraw_eq_step hf⟩, takeDraw_none⟩,
    fun s n hi hb hn => ?_⟩
  rw [step_transport hi hb, transportStep, hn]

/-! Who owns a handle (10_state.md §2): it comes with TOpen's answer and goes with TClose's. -/

/-- A move brings a driver a handle only as TOpen's (R25). -/
theorem DriverMove.held_or_brought {p : Nat × Nat → Bool} {taken : Handle → Bool} {d d' : Driver} {h : Handle}
    (hm : DriverMove p taken d d') (hwf : d.WF) (hh : d'.held? = some h) : d.held? = some h ∨
      ∃ cfg, d.inflight = some (.tOpen cfg) ∧ d'.inflight = some (.tConfigure cfg h) ∧ taken h = false := by
  cases hm with
  | kept hd => exact .inl (hd ▸ hh)
  | openAsked _ _ hi _ hd | transferAsked _ _ hi _ hd | closeAsked _ _ hi _ hd | openFailed _ hi hd | opened _ _ hi hd
  | releaseAsked _ _ hi hd | transferred hi hd => exact .inl (by simpa [Driver.held?, hd, hi] using hh)
  | released _ _ hi hd => simp [Driver.held?, hd, hwf.handle_of_release hi] at hh
  | closed _ hd => simp [Driver.held?, hd] at hh
  | handleBrought cfg _ hi hfree hd =>
    obtain rfl : _ = h := by simpa [Driver.held?, hd] using hh
    exact .inr ⟨cfg, hi, congrArg Driver.inflight hd, hfree⟩

/-- A call brings no driver a handle: the driver it is issued on waits on nothing. -/
theorem CallEffect.held_kept {op : Op} {s t : State} {j : Nat} {h : Handle} (hc : CallEffect op s t)
    (hwf : ∀ id, (s.driver id).WF) (hh : (t.driver j).held? = some h) : (s.driver j).held? = some h := by
  by_cases hj : op.target? = some j
  · obtain hd | ⟨id, htarget, -, hmove⟩ := hc.moves
    · rwa [driver_of_drivers_eq hd] at hh
    · cases hj.symm.trans htarget
      refine (hmove.held_or_brought (hwf j) hh).resolve_right ?_
      rintro ⟨cfg, hi, -, -⟩
      cases (hc.target_idle (hwf j) hj).symm.trans hi
  · rwa [hc.keeps_untargeted hj] at hh

/-- From `s` to `t` the answer `a` brings the driver `id` a handle: it is TOpen's, and no other driver owns it. -/
def BringsHandle (id : Nat) (a : Answer) (h : Handle) (s t : State) : Prop :=
  a = .opened h ∧ s.handleTaken id h = false ∧
    ∃ cfg, (s.driver id).inflight = some (.tOpen cfg) ∧ (t.driver id).inflight = some (.tConfigure cfg h)

/-- A driver that goes on to TConfigure has got its handle from TOpen. -/
theorem AnswerEffect.opened_of_configuring {id : Nat} {a : Answer} {s t : State} {cfg : BusConfig} {h : Handle}
    (he : AnswerEffect id a s t) (hf : (s.driver id).inflight = some (.tOpen cfg))
    (ht : (t.driver id).inflight = some (.tConfigure cfg h)) : a = .opened h := by
  cases he with
  | opened _ _ _ ha _ heq =>
    subst heq
    rw [inflight_ask] at ht
    cases ht
    exact ha
  | openFailed _ _ _ heq =>
    subst heq
    cases (congrArg Driver.inflight (driver_complete_same ..)).symm.trans ht
  | configured _ _ hg _ _ _ | configRejected _ _ hg _ _ _ | released _ _ hg _ _ | replied _ _ _ hg _ _
  | wrongLength _ hg _ _ _ | transferFailed hg _ _ | closed hg _ _ => cases hf.symm.trans hg

/-- After an answer a driver owns what it owned, or the handle the answer has brought it. -/
theorem AnswerEffect.held_or_brought {id j : Nat} {a : Answer} {s t : State} {h : Handle} (he : AnswerEffect id a s t)
    (hwf : ∀ id, (s.driver id).WF) (hh : (t.driver j).held? = some h) :
    (s.driver j).held? = some h ∨ (j = id ∧ BringsHandle id a h s t) := by
  obtain ⟨hothers, hmove⟩ := he.moves
  by_cases hj : j = id
  · subst hj
    refine (hmove.held_or_brought (hwf j) hh).imp_right ?_
    rintro ⟨cfg, hf, hi, hfree⟩
    exact ⟨rfl, he.opened_of_configuring hf hi, hfree, cfg, hf, hi⟩
  · rw [hothers j hj] at hh
    exact .inl hh

/-- A draw that brings a handle is a success with that handle. -/
theorem drawnAnswer_opened {d : Config.Draw} {f : Inflight} {h : Handle} (ha : drawnAnswer d f = .opened h) :
    d.success = true ∧ d.handle = h := by
  cases f with
  | tOpen _ | transfer => cases hs : d.success <;> simp_all [drawnAnswer]
  | tConfigure _ _ | tRelease _ _ | tClose => cases ha

/-- After a step a driver owns what it owned, or the handle that TOpen's answer, given or drawn, has brought it. -/
theorem step_held_or_brought {s t : State} {j : Nat} {h : Handle} (hwf : ∀ id, (s.driver id).WF)
    (hstep : step s = .next t) (hh : (t.driver j).held? = some h) : (s.driver j).held? = some h ∨
      ∃ a, BringsHandle j a h s t ∧ ((∃ rest, s.inputs = .answer j a :: rest) ∨
        (s.inputs = [] ∧ ∃ n f, s.transport = .drawn n ∧ (Config.draw n).driver = j ∧
          a = drawnAnswer (Config.draw n) f)) := by
  cases step_next hstep with
  | call _ _ _ he | issue _ _ _ _ he => exact .inl (he.held_kept hwf hh)
  | answer id a rest hi _ he =>
    refine (he.held_or_brought hwf hh).imp_right ?_
    rintro ⟨rfl, hb⟩
    exact ⟨a, hb, .inl ⟨rest, hi⟩⟩
  | drawn n f hi _ hn _ he =>
    refine (he.held_or_brought hwf hh).imp_right ?_
    rintro ⟨rfl, hb⟩
    exact ⟨_, hb, .inr ⟨hi, n, f, hn, rfl, rfl⟩⟩
  | noAnswer _ _ _ _ _ ht | skip _ _ _ _ ht | again _ _ _ _ _ ht | forever _ _ _ _ ht | wait _ _ ht =>
    subst ht
    exact .inl hh

/-- A handle has a value exactly while its driver is open (R25). -/
theorem Driver.WF.handle_isSome_iff {d : Driver} (hd : d.WF) : d.handle.isSome ↔ d.life = .opened := by
  cases hl : d.life with
  | absent => simp [((wf_absent hl).1 hd).1]
  | opened => simp [((wf_opened hl).1 hd).1]
  | closed => simp [hd.handle_of_closed hl]

/-- An open driver closes only in the step in which CLOSE's TClose returns, and then owns no handle (R133). -/
theorem step_closes {s t : State} {id : Nat} (hinv : s.Inv) (hstep : step s = .next t)
    (hopened : (s.driver id).life = .opened) (hclosed : (t.driver id).life = .closed) :
    (∃ h, (s.driver id).handle = some h) ∧ (s.driver id).inflight = some .tClose ∧
      (t.driver id).handle = none ∧ (t.driver id).held? = none := by
  have hwritten : t.driver id ≠ s.driver id := fun hd => by
    rw [hd, hopened] at hclosed
    cases hclosed
  cases step_wrapperChange hstep with
  | kept hw => cases hopened.symm.trans ((congrArg Prod.fst (hw id)).symm.trans hclosed)
  | opened j _ _ _ hd hothers =>
    obtain rfl : id = j := not_imp_comm.1 (hothers id) hwritten
    cases (congrArg Driver.life hd).symm.trans hclosed
  | closed j hi hd hothers =>
    obtain rfl : id = j := not_imp_comm.1 (hothers id) hwritten
    exact ⟨Option.isSome_iff_exists.1 ((hinv.driverWF id).handle_isSome_iff.2 hopened), hi, by rw [hd], by rw [hd]; rfl⟩

/-- Settles O50: fields that fit together tie handles to Open, no step makes two drivers share one, and ownership comes
with TOpen's answer and goes with TClose's. -/
theorem handlesAreOwnedExclusively : Obligations.HandlesAreOwnedExclusively := by
  intro s t hinv hstep
  refine ⟨fun id => (step_keeps_driverWF hstep hinv.driverWF id).handle_isSome_iff, step_keeps_handles hinv hstep,
    fun id h hh => ?_, fun id => step_closes hinv hstep⟩
  refine (step_held_or_brought hinv.driverWF hstep hh).imp_right ?_
  rintro ⟨_, ⟨ha, hfree, cfg, hf, hi⟩, ⟨rest, hin⟩ | ⟨hin, n, f, hn, hid, hdraw⟩⟩
  · exact ⟨⟨cfg, hf, hi⟩, hfree, .inl ⟨rest, ha ▸ hin⟩⟩
  · obtain ⟨hsuccess, hhandle⟩ := drawnAnswer_opened (hdraw.symm.trans ha)
    exact ⟨⟨cfg, hf, hi⟩, hfree, .inr ⟨hin, n, hn, hid, hsuccess, hhandle⟩⟩

end Sys2Proof.Machine

/-! What has been sent and returned is no state (10_state.md §2): every operation does with a longer past what it does
without it. -/

namespace Sys2Proof.Machine

/-- The state with a longer past: `past` was emitted before its outputs. -/
def State.prepend (past : List Output) (s : State) : State := s.withOutputs (past ++ s.outputs)

/-- An outcome with a longer past. -/
def prependOutcome (past : List Output) : Host.Outcome State Fault Refusal → Host.Outcome State Fault Refusal
  | .next t => .next (t.prepend past)
  | .fault f => .fault f
  | .refused r => .refused r

/-- The operation neither reads nor drops what was emitted before. -/
def PastBlind (g : State → Host.Outcome State Fault Refusal) : Prop :=
  ∀ past s, g (s.prepend past) = prependOutcome past (g s)

section prepend
variable (past : List Output) (s : State) (id : Nat)

@[simp] theorem prepend_driver : (s.prepend past).driver id = s.driver id := rfl
@[simp] theorem prepend_serving : (s.prepend past).serving = s.serving := rfl
@[simp] theorem prepend_inputs : (s.prepend past).inputs = s.inputs := rfl
@[simp] theorem prepend_transport : (s.prepend past).transport = s.transport := rfl
@[simp] theorem prepend_program : (s.prepend past).program = s.program := rfl
@[simp] theorem prepend_busy : (s.prepend past).busy = s.busy := rfl
@[simp] theorem prepend_callerReady : (s.prepend past).callerReady = s.callerReady := rfl
@[simp] theorem prepend_pathTaken (p : Nat × Nat) : (s.prepend past).pathTaken id p = s.pathTaken id p := rfl
@[simp] theorem prepend_handleTaken (h : Handle) : (s.prepend past).handleTaken id h = s.handleTaken id h := rfl
@[simp] theorem prepend_expects (a : Answer) : (s.prepend past).expects id a = s.expects id a := rfl

theorem deliver_prepend (who : Option Nat) (r : Result) :
    deliver who r (s.prepend past) = (deliver who r s).prepend past := by
  simp [deliver, State.prepend, State.withOutputs, State.emit]

theorem setDriver_prepend (d : Driver) : (s.prepend past).setDriver id d = (s.setDriver id d).prepend past := rfl

theorem ask_prepend (q : Request) (f : Inflight) : ask id q f (s.prepend past) = (ask id q f s).prepend past := by
  simp [ask, State.prepend, State.withOutputs, State.emit, State.setInflight, State.setDriver, State.driver]

end prepend

theorem pastBlind_deliver (who : Option Nat) (r : Result) : PastBlind (fun s => .next (deliver who r s)) :=
  fun past s => congrArg _ (deliver_prepend past s who r)

theorem pastBlind_ask (id : Nat) (q : Request) (f : Inflight) : PastBlind (fun s => .next (ask id q f s)) :=
  fun past s => congrArg _ (ask_prepend past s id q f)

/-- Writing a driver and handing out a result. -/
theorem pastBlind_setDriver_deliver (id : Nat) (d : Driver → Driver) (r : Result) :
    PastBlind (fun s => .next (deliver (some id) r (s.setDriver id (d (s.driver id))))) :=
  fun past s => congrArg _ (deliver_prepend past (s.setDriver id (d (s.driver id))) (some id) r)

theorem pastBlind_complete (id : Nat) (r : Result) : PastBlind (fun s => .next (complete id r s)) :=
  pastBlind_setDriver_deliver id (fun d => { d with inflight := none }) r

/-- The codec's own field may be set first. -/
theorem PastBlind.serving {g : State → Host.Outcome State Fault Refusal} (hg : PastBlind g) (v : Option Nat) :
    PastBlind (fun s => g { s with serving := v }) :=
  fun past s => hg past { s with serving := v }

theorem pastBlind_deliverFrame (f : CommandFrame) : PastBlind (deliverFrame f) := by
  intro past s
  simp only [deliverFrame, prepend_serving, prepend_driver]
  cases s.serving with
  | none => exact pastBlind_deliver _ _ past s
  | some id =>
    dsimp only
    cases (s.driver id).handle with
    | none => rfl
    | some h => exact (pastBlind_ask id _ _).serving none past s

theorem pastBlind_deliverSample (v : Sample) : PastBlind (deliverSample v) := by
  intro past s
  simp only [deliverSample, prepend_serving]
  cases s.serving with
  | none => exact pastBlind_deliver _ _ past s
  | some id => exact pastBlind_complete _ _ past s

theorem pastBlind_exec (i : Instr) : PastBlind (exec i) := by
  cases i with
  | reply r0 r1 r2 => exact pastBlind_deliverSample _
  | _ => exact pastBlind_deliverFrame _

theorem pastBlind_runFrame (d : Direction) (bytes : List Byte) : PastBlind (runFrame d bytes) := by
  intro past s
  simp only [runFrame]
  cases decode d bytes with
  | instr i => exact pastBlind_exec i past s
  | rejected _ => rfl

theorem pastBlind_encodeFor (who : Option Nat) (c : Int) : PastBlind (encodeFor who c) := by
  intro past s
  simp only [encodeFor]
  cases encodeChannel c with
  | none => exact pastBlind_deliver _ _ past s
  | some f => exact (pastBlind_runFrame _ _).serving who past s

theorem pastBlind_callOpen (id : Nat) (args : ConfigArgs) : PastBlind (callOpen id args) := by
  intro past s
  simp only [callOpen, prepend_driver, prepend_pathTaken]
  cases (s.driver id).life with
  | opened | closed => rfl
  | absent =>
    cases (s.driver id).inflight with
    | some _ => rfl
    | none =>
      cases s.pathTaken id ((fillDefaults args).bus, (fillDefaults args).device) with
      | true => rfl
      | false => exact pastBlind_ask _ _ _ past s

theorem pastBlind_callRead (id : Nat) (c : Int) : PastBlind (callRead id c) := by
  intro past s
  simp only [callRead, prepend_driver]
  cases (s.driver id).life with
  | closed => exact pastBlind_deliver _ _ past s
  | absent => cases (s.driver id).inflight <;> rfl
  | opened =>
    cases (s.driver id).inflight with
    | some _ => rfl
    | none => exact pastBlind_encodeFor _ _ past s

theorem pastBlind_callClose (id : Nat) : PastBlind (callClose id) := by
  intro past s
  simp only [callClose, prepend_driver]
  cases (s.driver id).life with
  | closed => exact pastBlind_deliver _ _ past s
  | absent => cases (s.driver id).inflight <;> rfl
  | opened =>
    cases (s.driver id).inflight with
    | some _ => rfl
    | none =>
      cases (s.driver id).handle with
      | none => rfl
      | some h => exact pastBlind_ask _ _ _ past s

theorem pastBlind_call (op : Op) : PastBlind (call op) := by
  cases op with
  | encode c => exact pastBlind_encodeFor _ _
  | decode r0 r1 r2 => exact (pastBlind_runFrame .reply [r0, r1, r2]).serving none
  | openDriver id args => exact pastBlind_callOpen id args
  | read id c => exact pastBlind_callRead id c
  | close id => exact pastBlind_callClose id

theorem pastBlind_answerOpen (id : Nat) (cfg : BusConfig) (a : Answer) : PastBlind (answerOpen id cfg a) := by
  intro past s
  cases a with
  | opened h =>
    simp only [answerOpen, prepend_handleTaken]
    cases s.handleTaken id h with
    | true => rfl
    | false => exact pastBlind_ask _ _ _ past s
  | openFailed => exact pastBlind_complete _ _ past s
  | verdict | reply _ | transferFailed | released => rfl

theorem pastBlind_answerConfigure (accepts : BusConfig → Bool) (id : Nat) (cfg : BusConfig) (h : Handle) (a : Answer) :
    PastBlind (answerConfigure accepts id cfg h a) := by
  intro past s
  cases a with
  | verdict =>
    simp only [answerConfigure]
    cases accepts cfg with
    | true => exact pastBlind_setDriver_deliver id (fun _ => _) _ past s
    | false => exact pastBlind_ask _ _ _ past s
  | opened _ | openFailed | reply _ | transferFailed | released => rfl

theorem pastBlind_answerRelease (id : Nat) (cfg : BusConfig) (a : Answer) : PastBlind (answerRelease id cfg a) := by
  intro past s
  cases a with
  | released => exact pastBlind_complete _ _ past s
  | opened _ | openFailed | verdict | reply _ | transferFailed => rfl

theorem pastBlind_answerTransfer (id : Nat) (a : Answer) : PastBlind (answerTransfer id a) := by
  intro past s
  cases a with
  | reply bytes =>
    simp only [answerTransfer]
    cases decode .reply bytes with
    | instr i => exact (pastBlind_exec i).serving (some id) past s
    | rejected _ => exact pastBlind_complete _ _ past s
  | transferFailed => exact pastBlind_complete _ _ past s
  | opened _ | openFailed | verdict | released => rfl

theorem pastBlind_answerClose (id : Nat) (a : Answer) : PastBlind (answerClose id a) := by
  intro past s
  cases a with
  | released =>
    exact pastBlind_setDriver_deliver id (fun d => { d with life := .closed, handle := none, inflight := none }) _ past s
  | opened _ | openFailed | verdict | reply _ | transferFailed => rfl

theorem pastBlind_answer (id : Nat) (a : Answer) : PastBlind (answer id a) := by
  intro past s
  simp only [answer, prepend_driver]
  cases (s.driver id).inflight with
  | none => rfl
  | some f =>
    cases f with
    | tOpen cfg => exact pastBlind_answerOpen _ _ _ past s
    | tConfigure cfg h => exact pastBlind_answerConfigure _ _ _ _ _ past s
    | tRelease cfg h => exact pastBlind_answerRelease _ _ _ past s
    | transfer => exact pastBlind_answerTransfer _ _ past s
    | tClose => exact pastBlind_answerClose _ _ past s

theorem pastBlind_takeDraw (d : Config.Draw) : PastBlind (takeDraw d) := by
  intro past s
  simp only [takeDraw, prepend_driver, prepend_expects]
  cases (s.driver d.driver).inflight with
  | none => rfl
  | some f =>
    dsimp only
    cases s.expects d.driver (drawnAnswer d f) with
    | true => exact pastBlind_answer _ _ past s
    | false => rfl

theorem pastBlind_transportStep : PastBlind transportStep := by
  intro past s
  simp only [transportStep, prepend_transport]
  cases s.transport with
  | silent => rfl
  | drawn n => exact pastBlind_takeDraw _ past { s with transport := .drawn (n + 1) }

theorem pastBlind_callerStep : PastBlind callerStep := by
  intro past s
  simp only [callerStep, prepend_program]
  cases s.program with
  | done => rfl
  | op o rest => exact pastBlind_call o past { s with program := rest }
  | rep n body rest => cases n <;> rfl
  | forever body rest => rfl

theorem pastBlind_quietStep : PastBlind quietStep := by
  intro past s
  simp only [quietStep, prepend_busy]
  cases s.busy with
  | true => exact pastBlind_transportStep past s
  | false => exact pastBlind_callerStep past s

theorem pastBlind_answerStep (id : Nat) (a : Answer) (rest : List Input) : PastBlind (answerStep id a rest) := by
  intro past s
  simp only [answerStep, prepend_callerReady]
  cases s.callerReady with
  | true => exact pastBlind_callerStep past s
  | false => exact pastBlind_answer id a past { s with inputs := rest }

theorem pastBlind_step : PastBlind step := by
  intro past s
  simp only [step, prepend_inputs]
  match s.inputs with
  | [] => exact pastBlind_quietStep past s
  | .call op :: rest => exact pastBlind_call op past { s with inputs := rest }
  | .answer id a :: rest => exact pastBlind_answerStep id a rest past s

/-- Settles O41: a step neither reads nor drops the past, whatever the agent whose turn it is. -/
theorem pastFramesAreUnobservable : Obligations.PastFramesAreUnobservable := by
  intro s past
  have hpast : s.withOutputs past = (s.withOutputs []).prepend past := by
    simp [State.prepend, State.withOutputs]
  rw [hpast, pastBlind_step past (s.withOutputs [])]
  cases step (s.withOutputs []) <;> rfl

end Sys2Proof.Machine

/-! Where a step meets a frame it runs the frame's instruction (00_scope.md §1, 42_transaction.md §3). -/

namespace Sys2Proof.Machine

/-- Bytes that decode to an instruction run as that instruction. -/
theorem runFrame_of_decode {d : Direction} {bytes : List Byte} {i : Instr} (h : decode d bytes = .instr i) (s : State) :
    runFrame d bytes s = exec i s := by
  simp only [runFrame, h]

/-- ENC's frame runs as the instruction it decodes to, for whoever asked for it. -/
theorem encodeFor_of_decode {who : Option Nat} {c : Int} {f : CommandFrame} {i : Instr} (hf : encodeChannel c = some f)
    (hi : decode .command [f.b0, f.b1, f.b2] = .instr i) (s : State) :
    encodeFor who c s = exec i { s with serving := who } := by
  simp only [encodeFor, hf, runFrame_of_decode hi]

/-- Every instruction runs by a call: a command row by ENCODE of its channel (R91), a reply by DECODE of its bytes. -/
theorem call_callOf (i : Instr) (s : State) : call (callOf i) s = exec i { s with serving := none } := by
  have hencode {c : Int} (hc : LegalChannel c) : call (.encode c) s = exec (commandOf c) { s with serving := none } :=
    (encodeFor_legal hc none s).trans (exec_commandOf hc _).symm
  cases i with
  | cmdSeCh1 => exact hencode (c := 1) (by decide)
  | cmdSeCh2 => exact hencode (c := 2) (by decide)
  | cmdSeCh3 => exact hencode (c := 3) (by decide)
  | cmdSeCh4 => exact hencode (c := 4) (by decide)
  | cmdSeCh5 => exact hencode (c := 5) (by decide)
  | cmdSeCh6 => exact hencode (c := 6) (by decide)
  | cmdSeCh7 => exact hencode (c := 7) (by decide)
  | cmdSeCh8 => exact hencode (c := 8) (by decide)
  | reply r0 r1 r2 => rfl

/-- Settles O16: the fetch puts the word's call first, the step takes it, and the call runs the instruction. -/
theorem stepRunsTheFetchedInstruction : Obligations.StepRunsTheFetchedInstruction := by
  intro s nbits w i hi
  have hfetch : s.withFetchWord nbits w = s.callFirst (callOf i) := by
    simp only [State.withFetchWord, hi]
  rw [hfetch]
  exact (step_call (callFirst_inputs s (callOf i))).trans (call_callOf i s)

/-- The reply to a driver's exchange runs for that driver. -/
theorem step_reply {s : State} {rest : List Input} {id : Nat} {bytes : List Byte} {i : Instr}
    (hin : s.inputs = .answer id (.reply bytes) :: rest) (hf : (s.driver id).inflight = some .transfer)
    (hi : decode .reply bytes = .instr i) : step s = exec i { s with inputs := rest, serving := some id } := by
  rw [step_answer_waiting hin hf]
  simp only [answer, driver_withInputs, hf, answerTransfer, hi]

/-- Settles O17: DECODE, ENCODE, READ and a reply each hand their bytes to the decoder and run what it answers. -/
theorem stepRunsTheDecodedInstruction : Obligations.StepRunsTheDecodedInstruction := by
  intro s rest i
  refine ⟨fun r0 r1 r2 hin hi => ?_, fun c f hin hf hi => ?_, fun id c f hin hl hidle hf hi => ?_,
    fun id bytes hin hf hi => step_reply hin hf hi⟩
  · exact (step_call hin).trans (runFrame_of_decode hi { s with inputs := rest, serving := none })
  · exact (step_call hin).trans (encodeFor_of_decode hf hi _)
  · exact (step_read_opened hin hl hidle).trans (encodeFor_of_decode hf hi _)

/-! One step of OPEN, READ and CLOSE (42_transaction.md): the answers, the errors, and the refusals. -/

section answerSteps
variable {s : State} {rest : List Input} {id : Nat} {cfg : BusConfig} {h : Handle}

/-- A failed TOpen ends OPEN with TransportUnavailable (R124). -/
theorem step_openFailed (hin : s.inputs = .answer id .openFailed :: rest)
    (hf : (s.driver id).inflight = some (.tOpen cfg)) :
    step s = .next (complete id (.error (.transportUnavailable cfg.bus cfg.device)) { s with inputs := rest }) := by
  simp only [step_answer_waiting hin hf, answer, driver_withInputs, hf, answerOpen]
  rfl

/-- TConfigure's answer is judged by the machine's own TRANSPORT_ACCEPTS (R121). -/
theorem step_verdict (hin : s.inputs = .answer id .verdict :: rest)
    (hf : (s.driver id).inflight = some (.tConfigure cfg h)) :
    step s = answerConfigure Config.transportAccepts id cfg h .verdict { s with inputs := rest } := by
  simp only [step_answer_waiting hin hf, answer, driver_withInputs, hf]

/-- The handle of a rejected configuration is released first (R126). -/
theorem step_verdict_rejected (hin : s.inputs = .answer id .verdict :: rest)
    (hf : (s.driver id).inflight = some (.tConfigure cfg h)) (hv : Config.transportAccepts cfg = false) :
    step s = .next (ask id (.tClose h) (.tRelease cfg h) { s with inputs := rest }) := by
  rw [step_verdict hin hf, answerConfigure, hv]

/-- Once it is released OPEN ends with InvalidConfig (R126). -/
theorem step_released (hin : s.inputs = .answer id .released :: rest)
    (hf : (s.driver id).inflight = some (.tRelease cfg h)) :
    step s = .next (complete id (.error (.invalidConfig cfg)) { s with inputs := rest }) := by
  simp only [step_answer_waiting hin hf, answer, driver_withInputs, hf, answerRelease]
  rfl

/-- A three-byte reply completes READ with its sample (R127). -/
theorem step_sample {r0 r1 r2 : Byte} (hin : s.inputs = .answer id (.reply [r0, r1, r2]) :: rest)
    (hf : (s.driver id).inflight = some .transfer) :
    step s = .next (complete id (.sample (decodeSample r0 r1 r2)) { s with inputs := rest, serving := some id }) :=
  step_reply hin hf rfl

/-- A failed exchange, or a reply that is not three bytes, ends READ with TransferFailed (R129, R130). -/
theorem step_transferFailed {a : Answer}
    (ha : a = .transferFailed ∨ ∃ bytes : List Byte, a = .reply bytes ∧ bytes.length ≠ 3) (hin : s.inputs = .answer id a :: rest)
    (hf : (s.driver id).inflight = some .transfer) :
    step s = .next (complete id (.error .transferFailed) { s with inputs := rest }) := by
  rw [step_answer_waiting hin hf]
  simp only [answer, driver_withInputs, hf]
  rcases ha with rfl | ⟨bytes, rfl, hn⟩
  · rfl
  · rcases decode_reply_cases bytes with ⟨r0, r1, r2, rfl, _⟩ | ⟨_, hd⟩
    · exact absurd rfl hn
    · simp only [answerTransfer, hd]
      rfl

/-- The answer to CLOSE's TClose closes the driver (R133). -/
theorem step_closed (hin : s.inputs = .answer id .released :: rest) (hf : (s.driver id).inflight = some .tClose) :
    step s = .next (deliver (some id) .done (State.setDriver { s with inputs := rest } id
      { s.driver id with life := .closed, handle := none, inflight := none })) := by
  simp only [step_answer_waiting hin hf, answer, driver_withInputs, hf, answerClose]

/-- CLOSE on an open idle driver asks TClose on its handle (R133). -/
theorem step_close (hin : s.inputs = .call (.close id) :: rest) (hl : (s.driver id).life = .opened)
    (hi : (s.driver id).inflight = none) (hh : (s.driver id).handle = some h) :
    step s = .next (ask id (.tClose h) .tClose { s with inputs := rest }) := by
  simp only [step_call hin, call, callClose, driver_withInputs, hl, hi, hh]

end answerSteps

/-- Settles O22: with either verdict `answerConfigure` goes on, and the step that takes TConfigure's answer asks the
machine's own parameter. -/
theorem openFollowsTheTransportsVerdict : Obligations.OpenFollowsTheTransportsVerdict := by
  refine ⟨fun accepts s id cfg h => ?_, fun s rest id cfg h hf hin => step_verdict hin hf⟩
  simp only [answerConfigure]
  cases accepts cfg with
  | true =>
    exact ⟨_, rfl, fun _ => ⟨(deliver_driver ..).trans (driver_setDriver_same ..), rfl⟩, nofun,
      fun j hj => (deliver_driver ..).trans (driver_setDriver_other _ _ _ hj), rfl, rfl, rfl⟩
  | false =>
    exact ⟨_, rfl, nofun, fun _ => ⟨driver_ask_same .., ask_outputs ..⟩, fun j hj => driver_ask_other _ _ _ _ hj,
      rfl, rfl, rfl⟩

/-- TConfigure's answer goes on, and OPEN is then completed exactly if the parameter accepts the configuration. -/
theorem step_verdict_created {s : State} {rest : List Input} {id : Nat} {cfg : BusConfig} {h : Handle}
    (hin : s.inputs = .answer id .verdict :: rest) (hf : (s.driver id).inflight = some (.tConfigure cfg h)) :
    ∃ t, step s = .next t ∧
      (t.outputs = s.outputs ++ [.result (some id) .created] ↔ Config.transportAccepts cfg = true) := by
  cases hv : Config.transportAccepts cfg with
  | true => exact ⟨_, step_verdict_accepted hin hf hv, by simp⟩
  | false => exact ⟨_, step_verdict_rejected hin hf hv, by simp⟩

/-- Settles O23: each of the two OPENs completes exactly if the one parameter accepts their one configuration. -/
theorem oneVerdictPerConfiguration : Obligations.OneVerdictPerConfiguration := by
  intro s s' rest rest' id id' cfg h h' hf hin hf' hin'
  obtain ⟨t, ht, hcreated⟩ := step_verdict_created hin hf
  obtain ⟨t', ht', hcreated'⟩ := step_verdict_created hin' hf'
  exact ⟨t, t', ht, ht', hcreated.trans hcreated'.symm⟩

/-- Settles O24: a closed driver's READ and CLOSE are `raise` of NotOpen, which writes no driver. -/
theorem closedDriversRaiseNotOpen : Obligations.ClosedDriversRaiseNotOpen := by
  intro s rest id op hop hin hl
  rw [step_call hin]
  rcases hop with rfl | ⟨c, rfl⟩
  · simp only [call, callClose, driver_withInputs, hl]
    rfl
  · simp only [call, callRead, driver_withInputs, hl]
    rfl

/-- Settles O26: the frame that READ sends is the one of the channel's row. -/
theorem readMakesOneTransfer : Obligations.ReadMakesOneTransfer := by
  intro s rest id h r hr hin hl hi hh
  obtain ⟨hc, -, hf⟩ := frameMap_row r hr
  have hstep := step_read_legal hin hl hi hh hc
  rw [hf] at hstep
  exact ⟨_, hstep, ask_outputs .., driver_ask_same .., fun j hj => driver_ask_other _ _ _ _ hj, rfl, rfl, rfl, rfl⟩

/-- Settles O28: either failure completes READ with TransferFailed, and `complete` writes only what the driver waits on. -/
theorem failedExchangeRaisesTransferFailed : Obligations.FailedExchangeRaisesTransferFailed := by
  intro s rest id a ha hin hf
  exact ⟨_, step_transferFailed ha hin hf, complete_outputs .., driver_complete_same ..,
    fun j hj => driver_complete_other _ _ _ hj, rfl, rfl, rfl⟩

/-- Settles O31: each operation looks at the driver's life first, then at what it waits on, and OPEN then at its path. -/
theorem refusedCases : Obligations.RefusedCases := by
  intro s rest id op htarget hin
  rw [step_call hin]
  refine ⟨fun hl hi hop => ?_, fun hl hop => ?_, fun hl hi => ?_, fun hl hi hop => ?_, fun args hop hl hi htaken => ?_⟩
  · rcases hop with rfl | ⟨c, rfl⟩ <;> simp only [call, callClose, callRead, driver_withInputs, hl, hi]
  · obtain ⟨args, rfl⟩ := hop
    cases hl' : (s.driver id).life with
    | absent => exact absurd hl' hl
    | opened | closed => simp only [call, callOpen, driver_withInputs, hl']
  · obtain ⟨f, hf⟩ := Option.isSome_iff_exists.1 hi
    cases op with
    | encode _ | decode _ _ _ => cases htarget
    | openDriver _ _ | read _ _ | close _ =>
      cases htarget
      simp only [call, callOpen, callClose, callRead, driver_withInputs, hl, hf]
  · obtain ⟨f, hf⟩ := Option.isSome_iff_exists.1 hi
    rcases hop with rfl | ⟨c, rfl⟩ <;> simp only [call, callClose, callRead, driver_withInputs, hl, hf]
  · subst hop
    obtain ⟨j, hj, hpath⟩ := htaken
    have htaken := pathTaken_of_holder (s := { s with inputs := rest }) hj hpath
    simp only [call, callOpen, driver_withInputs, hl, hi, htaken]

/-- Settles O34: an error's code is one of 1 to 5, and every other result has code 0. -/
theorem outcomeCodes : Obligations.OutcomeCodes := by
  refine ⟨fun r => ?_, fun _ _ => rfl, fun _ => rfl, fun _ => rfl, rfl, rfl⟩
  cases r with
  | error e => cases e <;> simp [Result.code, Error.code]
  | frame _ _ _ | sample _ | created | done => simp [Result.code]

end Sys2Proof.Machine

/-! Runs of one operation from its call to its result (42_transaction.md). -/

namespace Sys2Proof.Machine

/-- An operation of the driver `id` that was called in `s` is in progress in `t`: only what that driver waits on differs. -/
def InProgress (id : Nat) (s t : State) : Prop :=
  (∀ j, j ≠ id → t.driver j = s.driver j) ∧ ∃ f, t.driver id = { s.driver id with inflight := f }

/-- At its call nothing has changed. -/
theorem InProgress.called {id : Nat} {s t : State} (ht : t.drivers = s.drivers) : InProgress id s t :=
  ⟨fun j _ => driver_of_drivers_eq ht j, (s.driver id).inflight, driver_of_drivers_eq ht id⟩

/-- A request of the operation keeps it in progress, also when its answer has been taken from the inputs. -/
theorem InProgress.asked {id : Nat} {s t : State} {q : Request} {f : Inflight} {v : Option Nat} {i : List Input}
    (h : InProgress id s t) : InProgress id s { ask id q f t with serving := v, inputs := i } := by
  obtain ⟨hothers, g, hid⟩ := h
  refine ⟨fun j hj => (driver_ask_other t id q f hj).trans (hothers j hj), some f, (driver_ask_same t id q f).trans ?_⟩
  rw [hid]

/-- The operation that completes leaves every driver as it was before the call. -/
theorem InProgress.complete {id : Nat} {s t : State} (h : InProgress id s t) (hidle : (s.driver id).inflight = none)
    (r : Result) (j : Nat) : (complete id r t).driver j = s.driver j := by
  obtain ⟨hothers, g, hid⟩ := h
  by_cases hj : j = id
  · subst hj; rw [driver_complete_same, hid, ← hidle]
  · exact (driver_complete_other _ _ _ hj).trans (hothers j hj)

/-- Settles O20: OPEN asks TOpen alone, and its failure completes the OPEN. -/
theorem failedOpenRaisesTransportUnavailable : Obligations.FailedOpenRaisesTransportUnavailable := by
  intro s rest id args hin hfresh hpath
  refine ⟨_, calc core.run 2 s
      _ = _ := run_next 1 (step_open_fresh hin hfresh hpath)
      _ = _ := run_next 0 (step_openFailed rfl (inflight_ask ..))
      _ = .next _ := run_zero _,
    by simp, fun j => ?_, rfl, rfl, rfl⟩
  refine InProgress.complete ?_ (congrArg Driver.inflight hfresh) _ j
  exact .asked (.called rfl)

/-- Settles O21: after the rejecting verdict OPEN asks TClose on the handle TOpen brought, and completes once it is
released. -/
theorem rejectedConfigReleasesTheHandle : Obligations.RejectedConfigReleasesTheHandle := by
  intro s rest id args h hin hfresh hpath hfree hrejects
  refine ⟨_, calc core.run 4 s
      _ = _ := run_next 3 (step_open_fresh hin hfresh hpath)
      _ = _ := run_next 2 (step_opened rfl (inflight_ask ..) ((handleTaken_ask ..).trans hfree))
      _ = _ := run_next 1 (step_verdict_rejected rfl (inflight_ask ..) hrejects)
      _ = _ := run_next 0 (step_released rfl (inflight_ask ..))
      _ = .next _ := run_zero _,
    by simp, fun j => ?_, rfl, by simp, by simp⟩
  refine InProgress.complete ?_ (congrArg Driver.inflight hfresh) _ j
  exact .asked (.asked (.asked (.called rfl)))

/-- Settles O27: the reply to READ's one Transfer completes it with the decoder's sample, which is the value carried. -/
theorem readReturnsTheTransportsValue : Obligations.ReadReturnsTheTransportsValue := by
  intro s rest id h c V r0 hmin hmax hV hin hl hi hh
  refine ⟨_, (commandFrame (selector c)).b0, (commandFrame (selector c)).b1, (commandFrame (selector c)).b2, _,
    calc core.run 2 s
      _ = _ := run_next 1 (step_read_legal hin hl hi hh ⟨hmin, hmax⟩)
      _ = _ := run_next 0 (step_sample rfl (inflight_ask ..))
      _ = .next _ := run_zero _,
    decodeSample_of_value r0 hV, by simp, fun j => ?_, rfl, rfl, rfl, rfl⟩
  refine InProgress.complete ?_ hi _ j
  exact .asked (.called rfl)

/-- Settles O30: CLOSE asks TClose on the driver's handle, and the answer closes the driver. -/
theorem closeReleasesTheHandle : Obligations.CloseReleasesTheHandle := by
  intro s rest id h hin hl hi hh
  refine ⟨_, calc core.run 2 s
      _ = _ := run_next 1 (step_close hin hl hi hh)
      _ = _ := run_next 0 (step_closed rfl (inflight_ask ..))
      _ = .next _ := run_zero _,
    by simp, ?_, fun j hj => ?_, rfl, rfl, rfl⟩
  · rw [deliver_driver, driver_setDriver_same, driver_withInputs, driver_ask_same, driver_withInputs]
  · rw [deliver_driver, driver_setDriver_other _ _ _ hj, driver_withInputs, driver_ask_other _ _ _ _ hj,
      driver_withInputs]

/-! Runs of any length: what every step keeps, a run keeps. -/

/-- A run from a state that a step leaves as it is stays there. -/
theorem run_of_step_self {s : State} (h : step s = .next s) (n : Nat) : core.run n s = .next s := by
  induction n with
  | zero => exact run_zero s
  | succ n ih => exact (run_next n h).trans ih

/-- Settles O32: a silent transport's turn leaves the machine as it is, and while a driver waits every turn is the
transport's. -/
theorem aHungRequestWaitsForever : Obligations.AHungRequestWaitsForever := by
  intro s id n hi hsilent hwaits
  have hstep : step s = .next s := by
    rw [step_transport hi (busy_of_inflight hwaits), transportStep, hsilent]
  exact run_of_step_self hstep n

/-- What a step keeps holds after every run. -/
theorem run_keeps {P : State → Prop} (hstep : ∀ s t, P s → step s = .next t → P t) (n : Nat) {s t : State} (hs : P s)
    (h : core.run n s = .next t) : P t := by
  induction n generalizing s with
  | zero => cases h; exact hs
  | succ n ih =>
    simp only [Host.Core.run] at h
    split at h
    · rename_i u hu; exact ih (hstep s u hs hu) h
    · cases h
    · cases h

/-- The caller is polling with FOREVER { READ 1 }: at the loop's head or in the middle of an iteration. -/
def Polling (id : Nat) (s : State) : Prop :=
  s.program = .forever (.op (.read id 1) .done) .done ∨
    s.program = .op (.read id 1) (.forever (.op (.read id 1) .done) .done)

/-- Only the caller's turn moves the program, and each of its turns leads from the one place to the other. -/
theorem step_keeps_polling {id : Nat} (s t : State) (hs : Polling id s) (h : step s = .next t) : Polling id t := by
  have hkept (hp : t.program = s.program) : Polling id t := by rwa [Polling, hp]
  cases step_next h with
  | call _ _ _ he => exact hkept he.blockFrame.program
  | answer _ _ _ _ _ he | drawn _ _ _ _ _ _ he => exact hkept he.blockFrame.program
  | noAnswer _ _ _ _ _ ht | wait _ _ ht => subst ht; exact hs
  | issue _ _ _ hp he =>
    rcases hs with hs | hs <;> cases hs.symm.trans hp
    exact .inl he.blockFrame.program
  | forever _ _ _ hp ht =>
    rcases hs with hs | hs <;> cases hs.symm.trans hp
    subst ht
    exact .inr rfl
  | skip _ _ _ hp _ | again _ _ _ _ hp _ => rcases hs with hs | hs <;> cases hs.symm.trans hp

/-- Settles O46: every step keeps the caller polling, so every run does. -/
theorem pollingNeverEnds : Obligations.PollingNeverEnds := fun _ _ _ n hs h => run_keeps step_keeps_polling n hs h

/-! The caller's loops (30_encoding.md §7): each turn of one unrolls its body, and each READ of the body is one exchange. -/

/-- In its turn the caller goes from the program `p` to `q` without issuing anything. -/
def Unrolls (p q : Program) : Prop :=
  p.isDone = false ∧ ∀ s : State, s.program = p → callerStep s = .next { s with program := q }

theorem unrolls_rep_zero (body rest : Program) : Unrolls (.rep 0 body rest) rest :=
  ⟨rfl, fun s hp => by simp only [callerStep, hp]⟩

theorem unrolls_rep_succ (n : Nat) (body rest : Program) :
    Unrolls (.rep (n + 1) body rest) (body.append (.rep n body rest)) :=
  ⟨rfl, fun s hp => by simp only [callerStep, hp]⟩

theorem unrolls_forever (body rest : Program) : Unrolls (.forever body rest) (body.append (.forever body rest)) :=
  ⟨rfl, fun s hp => by simp only [callerStep, hp]⟩

/-- In the caller's turn a loop unrolls. -/
theorem step_unrolls {p q : Program} {s : State} (hu : Unrolls p q) (hc : s.CallerTurn) (hp : s.program = p) :
    step s = .next { s with program := q } := by
  obtain ⟨hd, hstep⟩ := hu
  exact (step_caller hc (hp ▸ hd)).trans (hstep s hp)

/-- In the caller's turn the next operation of its program is issued. -/
theorem step_issue {o : Op} {rest : Program} {s : State} (hc : s.CallerTurn) (hp : s.program = .op o rest) :
    step s = call o { s with program := rest } := by
  rw [step_caller hc (by rw [hp]; rfl), callerStep, hp]

/-- Settles O45: the caller's turn is `callerStep`, whose cases are the loops and the operation. -/
theorem callerLoopsUnroll : Obligations.CallerLoopsUnroll := by
  intro s hin hb n body rest
  have hc : s.CallerTurn := ⟨hin, hb⟩
  exact ⟨step_unrolls (unrolls_rep_zero body rest) hc, step_unrolls (unrolls_rep_succ n body rest) hc,
    step_unrolls (unrolls_forever body rest) hc, fun o => step_issue hc⟩

/-- From `s` to `t` the machine makes `n` steps, emits `out` and comes to rest again with every driver as before. -/
structure Rounds (n : Nat) (out : List Output) (s t : State) : Prop where
  run : ∀ k, core.run (n + k) s = core.run k t
  outputs : t.outputs = s.outputs ++ out
  drivers : ∀ j, t.driver j = s.driver j
  idle : t.busy = false
  transport : t.transport = s.transport

theorem Rounds.refl {s : State} (hb : s.busy = false) : Rounds 0 [] s s where
  run k := by rw [Nat.zero_add]
  outputs := (List.append_nil _).symm
  drivers _ := rfl
  idle := hb
  transport := rfl

theorem Rounds.trans {n m : Nat} {out out' : List Output} {s t u : State} (h : Rounds n out s t)
    (h' : Rounds m out' t u) : Rounds (n + m) (out ++ out') s u where
  run k := by rw [Nat.add_assoc, h.run, h'.run]
  outputs := by rw [h'.outputs, h.outputs, List.append_assoc]
  drivers j := (h'.drivers j).trans (h.drivers j)
  idle := h'.idle
  transport := h'.transport.trans h.transport

/-- A turn of a loop is one step that emits nothing. -/
theorem rounds_unrolls {p q : Program} {s : State} (hu : Unrolls p q) (hc : s.CallerTurn) (hp : s.program = p) :
    Rounds 1 [] s { s with program := q } where
  run k := by rw [Nat.add_comm, run_next k (step_unrolls hu hc hp)]
  outputs := (List.append_nil _).symm
  drivers _ := rfl
  idle := hc.2
  transport := rfl

/-- The answer that brings a reply to the driver `id`. -/
def replyInput (id : Nat) (x : Byte × Byte × Byte) : Input := .answer id (.reply [x.1, x.2.1, x.2.2])

/-- What a READ on the handle `h` emits when `f` is sent and `x` comes back. -/
def exchangeOutputs (id : Nat) (h : Handle) (f : CommandFrame) (x : Byte × Byte × Byte) : List Output :=
  [.request id (.transfer h f.b0 f.b1 f.b2), .result (some id) (.sample (decodeSample x.1 x.2.1 x.2.2))]

/-- READ of a legal channel on an open idle driver sends the channel's frame and waits (R127). -/
theorem call_read_legal {s : State} {id : Nat} {c : Int} {h : Handle} (hl : (s.driver id).life = .opened)
    (hi : (s.driver id).inflight = none) (hh : (s.driver id).handle = some h) (hc : LegalChannel c) :
    call (.read id c) s = .next (ask id (.transfer h (commandFrame (selector c)).b0 (commandFrame (selector c)).b1
      (commandFrame (selector c)).b2) .transfer { s with serving := none }) := by
  rw [call, callRead_opened c hl hi, encodeFor_legal hc]
  exact deliverFrame_of_handle _ rfl hh

section reads
variable {s : State} {id : Nat} {c : Int} {h : Handle} {more : List Input}

/-- The caller's next READ and its reply are two steps, after which nothing is in flight. -/
theorem rounds_read {p : Program} {x : Byte × Byte × Byte} (hl : (s.driver id).life = .opened)
    (hh : (s.driver id).handle = some h) (hb : s.busy = false) (hc : LegalChannel c)
    (hp : s.program = .op (.read id c) p) (hin : s.inputs = replyInput id x :: more) :
    ∃ t, Rounds 2 (exchangeOutputs id h (commandFrame (selector c)) x) s t ∧ t.inputs = more ∧ t.program = p := by
  have hi : (s.driver id).inflight = none := inflight_of_idle hb id
  have hsent := (step_issue ⟨.inr ⟨_, _, _, hin⟩, hb⟩ hp).trans
    (call_read_legal (s := { s with program := p }) hl hi hh hc)
  refine ⟨_, ⟨fun k => calc core.run (2 + k) s
      _ = core.run (k + 1 + 1) s := by rw [Nat.add_comm]
      _ = _ := run_next (k + 1) hsent
      _ = _ := run_next k (step_sample hin (inflight_ask ..)),
    by simp [exchangeOutputs], fun j => ?_, ?_, rfl⟩, rfl, rfl⟩
  · refine InProgress.complete ?_ hi _ j
    exact .asked (.called rfl)
  · exact idle_write rfl rfl (onlyWaits_write (s := s) rfl (onlyWaits_of_idle hb id))

/-- A loop whose every turn issues a READ of a legal channel makes one exchange per turn, as long as there are replies. -/
theorem rounds_loop {loop : Nat → Program} (hloop : ∀ n, Unrolls (loop (n + 1)) (.op (.read id c) (loop n)))
    (hc : LegalChannel c) (replies : List (Byte × Byte × Byte)) (hl : (s.driver id).life = .opened)
    (hh : (s.driver id).handle = some h) (hb : s.busy = false) (hp : s.program = loop replies.length)
    (hin : s.inputs = replies.map (replyInput id) ++ more) :
    ∃ t, Rounds (3 * replies.length) (replies.flatMap (exchangeOutputs id h (commandFrame (selector c)))) s t ∧
      t.inputs = more ∧ t.program = loop 0 := by
  induction replies generalizing s with
  | nil => exact ⟨s, .refl hb, hin, hp⟩
  | cons x replies ih =>
    have hturn := rounds_unrolls (hloop replies.length) ⟨.inr ⟨_, _, _, hin⟩, hb⟩ hp
    obtain ⟨t, hread, htin, htp⟩ := rounds_read (s := { s with program := .op (.read id c) (loop replies.length) })
      hl hh hb hc rfl hin
    have hfirst := hturn.trans hread
    obtain ⟨u, hrest, huin, hup⟩ := ih (by rwa [hfirst.drivers]) (by rwa [hfirst.drivers]) hfirst.idle htp htin
    refine ⟨u, ?_, huin, hup⟩
    have hsteps : 3 * (x :: replies).length = 1 + 2 + 3 * replies.length := by
      rw [List.length_cons]; omega
    rw [hsteps, List.flatMap_cons]
    exact hfirst.trans hrest

end reads

/-- Settles O48: `rounds_loop` runs the loop down to REPEAT 0, which one more step skips. -/
theorem repeatRunsItsBodyToCompletion : Obligations.RepeatRunsItsBodyToCompletion := by
  intro s id h replies rest r hr hl hh hb hp hin
  obtain ⟨hc, -, hf⟩ := frameMap_row r hr
  obtain ⟨t, hrounds, htin, htp⟩ := rounds_loop (loop := fun n => .rep n (.op (.read id r.2.1) .done) rest)
    (fun n => unrolls_rep_succ n _ rest) hc replies hl hh hb hp (hin.trans (List.append_nil _).symm)
  have hall := hrounds.trans (rounds_unrolls (unrolls_rep_zero _ rest) ⟨.inl htin, hrounds.idle⟩ htp)
  rw [hf, List.append_nil] at hall
  exact ⟨_, (hall.run 0).trans (run_zero _), hall.outputs, hall.drivers, htin, hall.transport, rfl⟩

/-- A request of the one driver that may wait leaves every other idle, also when its answer has been taken. -/
theorem onlyWaits_asked {s : State} {id : Nat} {q : Request} {f : Inflight} {i : List Input} (h : s.OnlyWaits id) :
    State.OnlyWaits { ask id q f s with inputs := i } id :=
  onlyWaits_write (s := s) (d := { s.driver id with inflight := some f }) rfl h

/-- When the one driver that waited is written idle, nothing is in flight (R48). -/
theorem idle_deliver_setDriver {s : State} {id : Nat} {d : Driver} {who : Option Nat} {r : Result}
    (hd : d.inflight = none) (h : s.OnlyWaits id) : (deliver who r (s.setDriver id d)).busy = false :=
  idle_write (s := s) (id := id) (d := d) rfl hd h

/-- OPEN issued by the caller's program, with an accepted configuration and a free path and handle, is three steps, after
which the driver is open and nothing is in flight (R124, R172). -/
theorem run_open {s : State} {id : Nat} {args : ConfigArgs} {h : Handle} {p : Program} {more : List Input}
    (hfresh : s.driver id = Driver.fresh) (hb : s.busy = false)
    (hpath : s.pathTaken id ((fillDefaults args).bus, (fillDefaults args).device) = false)
    (hfree : s.handleTaken id h = false) (haccepts : Config.transportAccepts (fillDefaults args) = true)
    (hp : s.program = .op (.openDriver id args) p)
    (hin : s.inputs = .answer id (.opened h) :: .answer id .verdict :: more) :
    ∃ t, (∀ k, core.run (3 + k) s = core.run k t) ∧
      t.outputs = s.outputs ++ [.request id (.tOpen (fillDefaults args).bus (fillDefaults args).device),
        .request id (.tConfigure h (fillDefaults args).mode (fillDefaults args).bitsPerWord
          (fillDefaults args).maxClockHz), .result (some id) .created] ∧
      t.driver id = { life := .opened, handle := some h, cfg := some (fillDefaults args), inflight := none } ∧
      (∀ j, j ≠ id → t.driver j = s.driver j) ∧ t.busy = false ∧ t.inputs = more ∧ t.transport = s.transport ∧
      t.program = p := by
  have hcalled := (step_issue ⟨.inr ⟨_, _, _, hin⟩, hb⟩ hp).trans (callOpen_free (s := { s with program := p })
    (congrArg Driver.life hfresh) (congrArg Driver.inflight hfresh) hpath)
  refine ⟨_, fun k => calc core.run (3 + k) s
      _ = core.run (k + 2 + 1) s := by rw [Nat.add_comm]
      _ = _ := run_next (k + 2) hcalled
      _ = _ := run_next (k + 1) (step_opened hin (inflight_ask ..) ((handleTaken_ask ..).trans hfree))
      _ = _ := run_next k (step_verdict_accepted rfl (inflight_ask ..) haccepts),
    by simp, (deliver_driver ..).trans (driver_setDriver_same ..), fun j hj => ?_, ?_, rfl, rfl, rfl⟩
  · simp only [deliver_driver, driver_setDriver_other, driver_ask_other, driver_withInputs, hj, ne_eq,
      not_false_eq_true]
    rfl
  · exact idle_deliver_setDriver rfl (onlyWaits_asked (onlyWaits_asked (onlyWaits_of_idle hb id)))

/-- Settles O47: OPEN is `run_open`, and from there FOREVER is a loop that never counts down. -/
theorem pollingHandsBackEveryReply : Obligations.PollingHandsBackEveryReply := by
  intro s id h replies more hfresh hb hpath hfree haccepts hp hin
  obtain ⟨t, hopen, hout, hid, hothers, htb, htin, httr, htp⟩ :=
    run_open (args := {}) hfresh hb hpath hfree haccepts hp hin
  obtain ⟨u, hrounds, huin, hup⟩ := rounds_loop (c := 1)
    (loop := fun _ => .forever (.op (.read id 1) .done) .done) (fun _ => unrolls_forever _ _) (by decide) replies
    (congrArg Driver.life hid) (congrArg Driver.handle hid) htb htp htin
  refine ⟨u, ?_, ?_, (hrounds.drivers id).trans hid, fun j hj => (hrounds.drivers j).trans (hothers j hj), huin,
    hrounds.transport.trans httr, hup⟩
  · exact (hopen _).trans ((hrounds.run 0).trans (run_zero u))
  · rw [hrounds.outputs, hout]
    rfl

end Sys2Proof.Machine
